-- ==== Sys2Proof/Word.lean ====
section
/-! DEFINITION. The word types of the block: bytes, the 9-bit received or transmitted word, the 16-bit CRC. -/

namespace Sys2Proof

/-- One byte: `u8` (00_scope.md R7). -/
abbrev Byte := BitVec 8

/-- One received or transmitted word: `u9`, the marker in bit 8 and the byte in bits 7:0 (30_encoding.md R63, R64). -/
abbrev Word9 := BitVec 9

/-- A CRC value: `u16` (00_scope.md R7, 40_codec.md R81). -/
abbrev Crc := BitVec 16

end Sys2Proof
end

