-- ==== Sys2Proof/Config.lean ====
section
/-! DEFINITION. The parameters of 00_scope.md R5, the default template of 10_state.md R19, and the one parameter the spec leaves open. -/

namespace Sys2Proof.Config

/-- `MAX_LEN`, the largest value of a frame's length field (00_scope.md R5). -/
abbrev maxLen : Nat := 255

/-- `DATA_CAP`, the capacity in bytes of every data buffer (00_scope.md R5, 90_conflicts.md C1). -/
abbrev dataCap : Nat := 255

/-- `SEEN_CAP`, the capacity of the seen-address set (00_scope.md R5). -/
abbrev seenCap : Nat := 10

/-- `PEND_CAP`, the capacity of the pending-response queue (00_scope.md R5). -/
abbrev pendCap : Nat := 100

/-- `BRIDGE_CAP`, the capacity of each bridge FIFO (00_scope.md R5). -/
abbrev bridgeCap : Nat := 100

/-- `CRC_POLY` (00_scope.md R5). -/
abbrev crcPoly : Crc := 0x1021#16

/-- `CRC_INIT` (00_scope.md R5). -/
abbrev crcInit : Crc := 0x0000#16

/-- `CRC_XOROUT`: 0, "no final XOR" (00_scope.md R5); 40_codec.md R81 therefore makes no final step. -/
abbrev crcXorOut : Crc := 0x0000#16

/-- `T_POLL`, the type code "poll/request" (00_scope.md R5, 30_encoding.md R69). -/
abbrev typePoll : Byte := 0x4c#8

/-- `T_DATA`, the type code "data / default-no-data response" (00_scope.md R5, 30_encoding.md R69). -/
abbrev typeData : Byte := 0x6c#8

/-- `DEF_LEN`, the length of the default response (00_scope.md R5, 10_state.md R19). -/
abbrev defLen : Byte := 2#8

/-- `DEF_DATA`, the data of the default response (00_scope.md R5, 10_state.md R19). -/
abbrev defData : List Byte := [0x00#8, 0xff#8]

/-- `MIN_FRAME`, the bytes of a frame of length 0 (00_scope.md R5). -/
abbrev minFrame : Nat := 5

/-- `MAX_FRAME`, the bytes of a frame of length 255 (00_scope.md R5). -/
abbrev maxFrame : Nat := 260

/-- `SEEN_ON_FULL`: whether `ENQ` marks the address seen when `pend` refused the Message. The spec leaves it OPEN
(92_eei_decisions.md D7, 93_implementation_defined.md U10; its default there is `true`), so it is a constant with no
body: whatever is proved holds for both values. Assumption 5. -/
opaque seenOnFull : Bool

end Sys2Proof.Config
end

