-- ==== Sys2Proof/Syntax.lean ====
section
/-! DEFINITION. The operations of the block as syntax: Messages, operand forms, one constructor of `Instr` per row of
spec/opcode_table.json, and the record in which an operation is presented to the block. -/

namespace Sys2Proof

/-- A Message (10_state.md R10): five fields, and the structural invariant of R11 as part of the type, as R11 and
93_implementation_defined.md U2 ask. CRC-validity is not part of it (90_conflicts.md C3). -/
structure Message where
  /-- frame type code -/
  type : Byte
  /-- bus address the frame is from or for -/
  address : Byte
  /-- number of data bytes -/
  length : Byte
  /-- the data bytes, in wire order -/
  data : List Byte
  /-- the CRC trailer as carried by the frame -/
  crc : Crc
  /-- `len(m.data) == m.length` (10_state.md R11) -/
  wf : data.length = length.toNat
deriving DecidableEq, Repr

/-- The three queues of Messages: `pend` (10_state.md R21), `b2h` (R22), `h2b` (R23). -/
inductive QueueId where
  | pend
  | b2h
  | h2b
deriving DecidableEq, Repr

/-- The two bridge FIFOs, the only queues `POPHEAD` takes (44_queue_bridge.md R124). -/
inductive FifoId where
  | b2h
  | h2b
deriving DecidableEq, Repr

/-- Where a frame whose type byte is dispatched comes from (30_encoding.md R69, R70). -/
inductive Origin where
  | bus
  | host
deriving DecidableEq, Repr

/-- The 21 operations by name, in the order of their operation-select codes (30_encoding.md R74, R76). -/
inductive Op where
  | crc16
  | encode
  | decode
  | computecrc
  | verify
  | start
  | feed
  | rxword
  | txframe
  | busframe
  | poll
  | enq
  | seenins
  | defresp
  | pendtake
  | tryinsert
  | pophead
  | hsubmit
  | hdrain
  | hpop
  | hexline
deriving DecidableEq, Repr

/-- The operations with their operands: one constructor per row of spec/opcode_table.json, in the table's order
(30_encoding.md R74, R76; the last three are the type-byte rows of R69). -/
inductive Instr where
  /-- `CRC16(bytes)` (40_codec.md R81) -/
  | crc16 (bytes : List Byte)
  /-- `ENCODE(m)` (40_codec.md R82) -/
  | encode (m : Message)
  /-- `DECODE(bytes)` (40_codec.md R83) -/
  | decode (bytes : List Byte)
  /-- `COMPUTECRC(m)` (40_codec.md R84) -/
  | computecrc (m : Message)
  /-- `VERIFY(m)` (40_codec.md R85) -/
  | verify (m : Message)
  /-- `START(t)` (41_parser.md R90) -/
  | start (t : Byte)
  /-- `FEED(b)` (41_parser.md R91) -/
  | feed (b : Byte)
  /-- `RXWORD(w)` (42_framing_gate.md R100) -/
  | rxword (w : Word9)
  /-- `TXFRAME(f)` (42_framing_gate.md R102), `f = f0 :: f1 :: rest`: the operand has at least two bytes -/
  | txframe (f0 f1 : Byte) (rest : List Byte)
  /-- `BUSFRAME(m)` (43_bus_relay.md R110) -/
  | busframe (m : Message)
  /-- `POLL(a)` (43_bus_relay.md R111) -/
  | poll (a : Byte)
  /-- `ENQ(m)` (43_bus_relay.md R112) -/
  | enq (m : Message)
  /-- `SEENINS(a)` (43_bus_relay.md R113) -/
  | seenins (a : Byte)
  /-- `DEFRESP(a)` (43_bus_relay.md R114) -/
  | defresp (a : Byte)
  /-- `PENDTAKE(a)` (43_bus_relay.md R115) -/
  | pendtake (a : Byte)
  /-- `TRYINSERT(q, cap, m)` (44_queue_bridge.md R120); `cap` is the capacity of `q` -/
  | tryinsert (q : QueueId) (m : Message)
  /-- `POPHEAD(q)` (44_queue_bridge.md R124) -/
  | pophead (q : FifoId)
  /-- `HSUBMIT(m)` (44_queue_bridge.md R121) -/
  | hsubmit (m : Message)
  /-- `HDRAIN` (44_queue_bridge.md R122) -/
  | hdrain
  /-- `HPOP` (44_queue_bridge.md R123) -/
  | hpop
  /-- `HEXLINE(bytes)` (30_encoding.md R73) -/
  | hexline (bytes : List Byte)
  /-- a frame of type `0x4c` reaches the type dispatch (30_encoding.md R69, R70) -/
  | tPoll (src : Origin) (m : Message)
  /-- a frame of type `0x6c` reaches the type dispatch (30_encoding.md R69, R70) -/
  | tData (src : Origin) (m : Message)
  /-- a frame of any other type reaches the type dispatch (30_encoding.md R69, R70) -/
  | tOther (src : Origin) (m : Message)
deriving DecidableEq, Repr

/-- The three formats of the opcode table (30_encoding.md R76): `RXW`, the 9-bit received word; `OPSEL`, the 5-bit
operation-select code; `TYPE`, the type byte of a frame, here with the side the frame comes from. -/
inductive Format where
  | rxw
  | opsel
  | typeByte (src : Origin)
deriving DecidableEq, Repr

/-- One operation as it is presented to the block: a format and the bytes, lowest first. The layout of the operand
bytes is the model's (assumption 2): the spec gives codes only. -/
structure Request where
  fmt : Format
  bytes : List Byte
deriving DecidableEq, Repr

/-- Why a request is no operation. -/
inductive DecodeError where
  /-- the bytes end before the operand does -/
  | truncated
  /-- a bit above the 5-bit code or above the 9-bit word is set -/
  | reservedBits
  /-- an unused operation-select code, `10101` to `11111` (30_encoding.md R76) -/
  | unusedOpsel (code : Byte)
  /-- a byte that selects no queue -/
  | badQueue (b : Byte)
  /-- bytes are left after the operand -/
  | trailingBytes
deriving DecidableEq, Repr

end Sys2Proof
end

