-- ==== Sys2Proof/Machine/Frame.lean ====
section
/-! DEFINITION. The pure functions: the layout of words and frames (30_encoding.md) and the Codec family (40_codec.md). -/

namespace Sys2Proof.Machine

/-- The marker bit `w[8]` of a word (30_encoding.md R63). -/
def wordMarker (w : Word9) : Bool := w.getLsbD 8

/-- The byte `w[7:0]` of a word (30_encoding.md R63). -/
def wordByte (w : Word9) : Byte := w.setWidth 8

/-- The word `marker ‖ byte` (30_encoding.md R63, R64). -/
def mkWord (marker : Bool) (b : Byte) : Word9 := BitVec.ofBool marker ++ b

/-- `crc[15:8]` (20_memory.md R41). -/
def crcHi (c : Crc) : Byte := c.extractLsb' 8 8

/-- `crc[7:0]` (20_memory.md R41). -/
def crcLo (c : Crc) : Byte := c.setWidth 8

/-- A CRC from its two bytes, high byte first (30_encoding.md R67). -/
def crcOfBytes (hi lo : Byte) : Crc := (hi.setWidth 16 <<< 8) ^^^ lo.setWidth 16

/-- One bit of the loop of `CRCBYTE` (40_codec.md R81). -/
def crcBit (c : Crc) : Crc :=
  if c.getLsbD 15 then (c <<< 1) ^^^ Config.crcPoly else c <<< 1

/-- `k` bits of the loop of `CRCBYTE` (40_codec.md R81). -/
def crcBits : Nat → Crc → Crc
  | 0, c => c
  | k + 1, c => crcBits k (crcBit c)

/-- `CRCBYTE(crc, b)` (40_codec.md R81). -/
def crcByte (c : Crc) (b : Byte) : Crc :=
  crcBits 8 (c ^^^ (b.setWidth 16 <<< 8))

/-- `CRC16(bytes)` (40_codec.md R81): the bytes folded in wire order, no final XOR. -/
def crc16 (bytes : List Byte) : Crc :=
  bytes.foldl crcByte Config.crcInit

/-- `BODY(m)` (40_codec.md R82): what the CRC covers. -/
def body (m : Message) : List Byte :=
  m.type :: m.address :: m.length :: m.data

/-- `ENCODE(m)` (40_codec.md R82), the frame of 30_encoding.md R60; the stored CRC is written as it is. -/
def encodeFrame (m : Message) : List Byte :=
  body m ++ [crcHi m.crc, crcLo m.crc]

/-- `DECODE(bytes)` (40_codec.md R83): `none` for a buffer that is too short (92_eei_decisions.md D13); bytes beyond
the frame are ignored. -/
def decodeFrame (bytes : List Byte) : Option Message :=
  match bytes with
  | t :: a :: l :: rest =>
    if h : l.toNat + 2 ≤ rest.length then
      some { type := t, address := a, length := l, data := rest.take l.toNat,
             crc := crcOfBytes (rest.getD l.toNat 0) (rest.getD (l.toNat + 1) 0),
             wf := by simp; omega }
    else none
  | _ => none

/-- `COMPUTECRC(m)` (40_codec.md R84); `m.crc` is not an input. -/
def computeCrc (m : Message) : Crc :=
  crc16 (body m)

/-- `VERIFY(m)` (40_codec.md R85): the Message is CRC-valid. -/
def verify (m : Message) : Bool :=
  computeCrc m == m.crc

/-- The default template with the address filled in and the CRC not yet computed (10_state.md R19). -/
def defTemplate (a : Byte) : Message :=
  { type := Config.typeData, address := a, length := Config.defLen, data := Config.defData, crc := 0, wf := rfl }

/-- `DEFRESP(a)` (43_bus_relay.md R114). -/
def defResp (a : Byte) : Message :=
  { defTemplate a with crc := computeCrc (defTemplate a) }

/-- The poll frame for an address, with no data (30_encoding.md R75), its CRC not yet computed. -/
def pollTemplate (a : Byte) : Message :=
  { type := Config.typePoll, address := a, length := 0, data := [], crc := 0, wf := rfl }

/-- The poll frame for an address, with no data (30_encoding.md R75): what the bus master sends; no operation of the block
makes one. -/
def pollMessage (a : Byte) : Message :=
  { pollTemplate a with crc := computeCrc (pollTemplate a) }

/-- The lower-case hexadecimal digit of `v < 16` (30_encoding.md R73). -/
def hexDigit (v : Nat) : Char :=
  Char.ofNat (if v < 10 then 0x30 + v else 0x57 + v)

/-- `HEXLINE(bytes)` (30_encoding.md R73): two digits a byte, high nibble first, and one LF (92_eei_decisions.md D18). -/
def hexLine (bytes : List Byte) : List Char :=
  bytes.flatMap (fun b => [hexDigit (b.toNat / 16), hexDigit (b.toNat % 16)]) ++ [Char.ofNat 0x0a]

end Sys2Proof.Machine
end

