-- ==== Sys2Proof/WellFormed.lean ====
section
/-! DEFINITION. Which instructions are well-formed: those of a type-dispatch row carry the type byte the row names. -/

namespace Sys2Proof

/-- The type-byte patterns of 30_encoding.md R69; every other operand value is a legal one. -/
def Instr.wellFormed : Instr → Bool
  | .crc16 _ => true
  | .encode _ => true
  | .decode _ => true
  | .computecrc _ => true
  | .verify _ => true
  | .start _ => true
  | .feed _ => true
  | .rxword _ => true
  | .txframe _ _ _ => true
  | .busframe _ => true
  | .poll _ => true
  | .enq _ => true
  | .seenins _ => true
  | .defresp _ => true
  | .pendtake _ => true
  | .tryinsert _ _ => true
  | .pophead _ => true
  | .hsubmit _ => true
  | .hdrain => true
  | .hpop => true
  | .hexline _ => true
  | .tPoll _ m => m.type == Config.typePoll
  | .tData _ m => m.type == Config.typeData
  | .tOther _ m => !(m.type == Config.typePoll) && !(m.type == Config.typeData)

end Sys2Proof
end

