-- ==== Sys2Proof/Decode.lean ====
section
/-! DEFINITION. The decoder, total on any bytes and rejecting by name; the encoder; the opcode table's words as requests.
The match patterns are those of spec/opcode_table.json (30_encoding.md R63, R69, R76). How operands follow the code is the
model's layout (assumption 2): a byte is one byte, a 9-bit word two bytes low first, a Message its frame (R60), a queue
one byte, and a byte list, which is always the last operand and may have any length (40_codec.md R81, R83), all bytes left. -/

namespace Sys2Proof

open Machine

/-- A value read from the front of the bytes, and the bytes left. -/
abbrev Parsed (α : Type) := Except DecodeError (α × List Byte)

/-- The instruction built from a parsed operand. -/
def build {α : Type} (p : Parsed α) (f : α → Instr) : Parsed Instr :=
  match p with
  | .ok (a, rest) => .ok (f a, rest)
  | .error e => .error e

/-- One byte. -/
def takeByte : List Byte → Parsed Byte
  | [] => .error .truncated
  | b :: rest => .ok (b, rest)

/-- A byte list: all bytes that are left, so a list of any length is an operand (40_codec.md R81, R83). -/
def takeList (bs : List Byte) : Parsed (List Byte) :=
  .ok (bs, [])

/-- A Message as its frame (30_encoding.md R60, R62). -/
def takeMessage (bs : List Byte) : Parsed Message :=
  match decodeFrame bs with
  | some m => .ok (m, bs.drop (5 + m.length.toNat))
  | none => .error .truncated

/-- A 9-bit word: bits 7:0, then bit 8 in a byte of its own. -/
def takeWord : List Byte → Parsed Word9
  | lo :: hi :: rest =>
    if hi.toNat < 2 then .ok (mkWord (hi.getLsbD 0) lo, rest) else .error .reservedBits
  | _ => .error .truncated

/-- A queue of `TRYINSERT`. -/
def takeQueue : List Byte → Parsed QueueId
  | [] => .error .truncated
  | b :: rest =>
    match b.toNat with
    | 0 => .ok (.pend, rest)
    | 1 => .ok (.b2h, rest)
    | 2 => .ok (.h2b, rest)
    | _ => .error (.badQueue b)

/-- A bridge FIFO of `POPHEAD`. -/
def takeFifo : List Byte → Parsed FifoId
  | [] => .error .truncated
  | b :: rest =>
    match b.toNat with
    | 0 => .ok (.b2h, rest)
    | 1 => .ok (.h2b, rest)
    | _ => .error (.badQueue b)

/-- The operands of `TXFRAME`: two bytes, then a byte list. -/
def parseTxframe : List Byte → Parsed Instr
  | f0 :: f1 :: rest => build (takeList rest) (.txframe f0 f1)
  | _ => .error .truncated

/-- The operands of `TRYINSERT`: a queue, then a Message. -/
def parseTryinsert (bs : List Byte) : Parsed Instr :=
  match takeQueue bs with
  | .ok (q, rest) => build (takeMessage rest) (.tryinsert q)
  | .error e => .error e

/-- The 5-bit operation-select code of an operation, in a byte (30_encoding.md R76). -/
def opCode : Op → Byte
  | .crc16 => 0
  | .encode => 1
  | .decode => 2
  | .computecrc => 3
  | .verify => 4
  | .start => 5
  | .feed => 6
  | .rxword => 7
  | .txframe => 8
  | .busframe => 9
  | .poll => 10
  | .enq => 11
  | .seenins => 12
  | .defresp => 13
  | .pendtake => 14
  | .tryinsert => 15
  | .pophead => 16
  | .hsubmit => 17
  | .hdrain => 18
  | .hpop => 19
  | .hexline => 20

/-- The operation of an operation-select code (30_encoding.md R76): bits 7:5 of its byte are 0, and codes `10101` to
`11111` are unused. -/
def opOfCode (code : Byte) : Except DecodeError Op :=
  match code.toNat with
  | 0 => .ok .crc16
  | 1 => .ok .encode
  | 2 => .ok .decode
  | 3 => .ok .computecrc
  | 4 => .ok .verify
  | 5 => .ok .start
  | 6 => .ok .feed
  | 7 => .ok .rxword
  | 8 => .ok .txframe
  | 9 => .ok .busframe
  | 10 => .ok .poll
  | 11 => .ok .enq
  | 12 => .ok .seenins
  | 13 => .ok .defresp
  | 14 => .ok .pendtake
  | 15 => .ok .tryinsert
  | 16 => .ok .pophead
  | 17 => .ok .hsubmit
  | 18 => .ok .hdrain
  | 19 => .ok .hpop
  | 20 => .ok .hexline
  | n => if n < 32 then .error (.unusedOpsel code) else .error .reservedBits

/-- An operation and its operand bytes. `START` and `FEED` have codes too, beside the received word's own format. -/
def parseOperands (op : Op) (bs : List Byte) : Parsed Instr :=
  match op with
  | .crc16 => build (takeList bs) .crc16
  | .encode => build (takeMessage bs) .encode
  | .decode => build (takeList bs) .decode
  | .computecrc => build (takeMessage bs) .computecrc
  | .verify => build (takeMessage bs) .verify
  | .start => build (takeByte bs) .start
  | .feed => build (takeByte bs) .feed
  | .rxword => build (takeWord bs) .rxword
  | .txframe => parseTxframe bs
  | .busframe => build (takeMessage bs) .busframe
  | .poll => build (takeByte bs) .poll
  | .enq => build (takeMessage bs) .enq
  | .seenins => build (takeByte bs) .seenins
  | .defresp => build (takeByte bs) .defresp
  | .pendtake => build (takeByte bs) .pendtake
  | .tryinsert => parseTryinsert bs
  | .pophead => build (takeFifo bs) .pophead
  | .hsubmit => build (takeMessage bs) .hsubmit
  | .hdrain => .ok (.hdrain, bs)
  | .hpop => .ok (.hpop, bs)
  | .hexline => build (takeList bs) .hexline

/-- A received word selects `START` or `FEED` by its marker bit (30_encoding.md R63). -/
def rxInstr (w : Word9) : Instr :=
  if wordMarker w then .start (wordByte w) else .feed (wordByte w)

/-- A frame selects its row by its type byte (30_encoding.md R69). -/
def typeInstr (src : Origin) (m : Message) : Instr :=
  if m.type = Config.typePoll then .tPoll src m
  else if m.type = Config.typeData then .tData src m
  else .tOther src m

/-- The instruction at the front of the bytes, and the bytes left. -/
def parse (fmt : Format) (bs : List Byte) : Parsed Instr :=
  match fmt with
  | .rxw => build (takeWord bs) rxInstr
  | .typeByte src => build (takeMessage bs) (typeInstr src)
  | .opsel =>
    match bs with
    | [] => .error .truncated
    | code :: rest =>
      match opOfCode code with
      | .ok op => parseOperands op rest
      | .error e => .error e

/-- The decoder: a request holds exactly one instruction. -/
def decode (r : Request) : Except DecodeError Instr :=
  match parse r.fmt r.bytes with
  | .ok (i, []) => .ok i
  | .ok (_, _ :: _) => .error .trailingBytes
  | .error e => .error e

/-- The bytes of a 9-bit word. -/
def wordBytes (w : Word9) : List Byte :=
  [wordByte w, (BitVec.ofBool (wordMarker w)).setWidth 8]

/-- The byte of a queue. -/
def queueByte : QueueId → Byte
  | .pend => 0
  | .b2h => 1
  | .h2b => 2

/-- The byte of a bridge FIFO. -/
def fifoByte : FifoId → Byte
  | .b2h => 0
  | .h2b => 1

/-- The encoder: the request of an instruction, from the same tables. -/
def encode : Instr → Request
  | .crc16 bytes => ⟨.opsel, opCode .crc16 :: bytes⟩
  | .encode m => ⟨.opsel, opCode .encode :: encodeFrame m⟩
  | .decode bytes => ⟨.opsel, opCode .decode :: bytes⟩
  | .computecrc m => ⟨.opsel, opCode .computecrc :: encodeFrame m⟩
  | .verify m => ⟨.opsel, opCode .verify :: encodeFrame m⟩
  | .start t => ⟨.rxw, wordBytes (mkWord true t)⟩
  | .feed b => ⟨.rxw, wordBytes (mkWord false b)⟩
  | .rxword w => ⟨.opsel, opCode .rxword :: wordBytes w⟩
  | .txframe f0 f1 rest => ⟨.opsel, opCode .txframe :: f0 :: f1 :: rest⟩
  | .busframe m => ⟨.opsel, opCode .busframe :: encodeFrame m⟩
  | .poll a => ⟨.opsel, [opCode .poll, a]⟩
  | .enq m => ⟨.opsel, opCode .enq :: encodeFrame m⟩
  | .seenins a => ⟨.opsel, [opCode .seenins, a]⟩
  | .defresp a => ⟨.opsel, [opCode .defresp, a]⟩
  | .pendtake a => ⟨.opsel, [opCode .pendtake, a]⟩
  | .tryinsert q m => ⟨.opsel, opCode .tryinsert :: queueByte q :: encodeFrame m⟩
  | .pophead q => ⟨.opsel, [opCode .pophead, fifoByte q]⟩
  | .hsubmit m => ⟨.opsel, opCode .hsubmit :: encodeFrame m⟩
  | .hdrain => ⟨.opsel, [opCode .hdrain]⟩
  | .hpop => ⟨.opsel, [opCode .hpop]⟩
  | .hexline bytes => ⟨.opsel, opCode .hexline :: bytes⟩
  | .tPoll src m => ⟨.typeByte src, encodeFrame m⟩
  | .tData src m => ⟨.typeByte src, encodeFrame m⟩
  | .tOther src m => ⟨.typeByte src, encodeFrame m⟩

/-- Which of the table's three formats a word of `nbits` bits is in. The table numbers all three from bit 0 and its
patterns overlap in 8 bits, so the choice is the model's (assumption 3): over 8 bits is `RXW`; a byte below `0x15` is an
`OPSEL` code; any other byte, and a row with no fixed bit, is a type byte of a frame from the bus. -/
def tableFormat (nbits w : Nat) : Format :=
  if 8 < nbits then .rxw
  else if nbits ≠ 0 ∧ w < 0x15 then .opsel
  else .typeByte .bus

/-- `n` bytes of `w`, bit 0 in the first. -/
def bytesOf : Nat → Nat → List Byte
  | 0, _ => []
  | n + 1, w => BitVec.ofNat 8 w :: bytesOf n (w / 256)

/-- The request with zero bytes added, one at a time and `n` at most, until it decodes. -/
def padZeros : Nat → Request → Request
  | 0, r => r
  | n + 1, r =>
    match decode r with
    | .ok _ => r
    | .error _ => padZeros n ⟨r.fmt, r.bytes ++ [0]⟩

/-- A table word as a request: its bytes (at least one), and as many zero bytes as its operand needs. An operand of zeros
needs six bytes at most (a queue and the frame of the empty Message); a byte list needs none. -/
def tableRequest (nbits w : Nat) : Request :=
  padZeros 8 ⟨tableFormat nbits w, bytesOf (max 1 ((nbits + 7) / 8)) w⟩

/-- The instruction the decoder reads from a word numbered as spec/opcode_table.json numbers it. -/
def decodeTableWord (nbits w : Nat) : Option Instr :=
  match decode (tableRequest nbits w) with
  | .ok i => some i
  | .error _ => none

end Sys2Proof
end

