-- ==== Sys2Proof/Machine/State.lean ====
section
/-! DEFINITION. The state of the block (10_state.md), the two traces and the outcome record of 60_exceptions.md R130, the
pending operations, and the state after reset. -/

namespace Sys2Proof.Machine

/-- The values of `p_state` (10_state.md R14). -/
inductive PState where
  | idle
  | collecting
deriving DecidableEq, Repr

/-- A transmit event (42_framing_gate.md R101). -/
inductive TxEvent where
  /-- `Word(w)`: one `send(byte, markerBit)` -/
  | word (w : Word9)
  /-- `Drain`: one drain-wait -/
  | drain
deriving DecidableEq, Repr

/-- An error report and the `info` it carries (60_exceptions.md R131). -/
inductive Report where
  /-- code 1 (60_exceptions.md R132) -/
  | crcMismatch (m : Message)
  /-- code 2 (60_exceptions.md R133) -/
  | frameOverrun (b : Byte)
  /-- code 3 (60_exceptions.md R134) -/
  | queueFull (q : QueueId) (m : Message)
  /-- code 4: never raised (60_exceptions.md R135, 90_conflicts.md C4) -/
  | unknownAddress
  /-- code 5 (60_exceptions.md R136) -/
  | oversizeLength (b : Byte)
deriving DecidableEq, Repr

/-- An entry of `err_log`: a report tagged with the operation that raised it (10_state.md R26; the column
"raised by" of 60_exceptions.md R131). -/
structure ErrEntry where
  raisedBy : Op
  report : Report
deriving DecidableEq, Repr

/-- What `FEED` returns (41_parser.md R91). -/
inductive FeedResult where
  | pending
  | complete (m : Message)
  | refused
deriving DecidableEq, Repr

/-- What `TRYINSERT` returns (44_queue_bridge.md R120). -/
inductive InsertResult where
  | ok
  | full
deriving DecidableEq, Repr

/-- What `HSUBMIT` returns (44_queue_bridge.md R121). -/
inductive SubmitResult where
  | ok
  | queueFull
  | rejected
deriving DecidableEq, Repr

/-- The return value of an operation (30_encoding.md R74, column "result"). -/
inductive Ret where
  /-- the operation returns nothing -/
  | nothing
  | u16 (v : Crc)
  | bytes (l : List Byte)
  | bool (b : Bool)
  | message (m : Message)
  /-- `DECODE`, `PENDTAKE`, `POPHEAD`: a Message or `none` -/
  | optMessage (m : Option Message)
  | feed (r : FeedResult)
  | insert (r : InsertResult)
  | submit (r : SubmitResult)
  /-- `HPOP` on an empty FIFO -/
  | noData
  | text (l : List Char)
deriving DecidableEq, Repr

/-- The outcome of one operation (60_exceptions.md R130): its error reports in the order raised, its transmit events,
its return value. -/
structure OpOutcome where
  errs : List ErrEntry
  tx : List TxEvent
  ret : Ret
deriving DecidableEq, Repr

/-- The block's state: plain data. Nothing else is state (10_state.md, opening). -/
structure State where
  /-- `p_state` (10_state.md R12, R14) -/
  pState : PState
  /-- `pos` (10_state.md R12, R16) -/
  pos : BitVec 9
  /-- `m_type` (10_state.md R12) -/
  mType : Byte
  /-- `m_addr` (10_state.md R12) -/
  mAddr : Byte
  /-- `m_len` (10_state.md R12) -/
  mLen : Byte
  /-- `m_data[0 .. 254]` (10_state.md R12): 255 entries, an invariant every operation keeps -/
  mData : List Byte
  /-- `m_crc` (10_state.md R12) -/
  mCrc : Crc
  /-- `seen`, in order of first insertion (10_state.md R20) -/
  seen : List Byte
  /-- `pend`, oldest first (10_state.md R21) -/
  pend : List Message
  /-- `b2h`, oldest first (10_state.md R22) -/
  b2h : List Message
  /-- `h2b`, oldest first (10_state.md R23) -/
  h2b : List Message
  /-- `tx_marker` (10_state.md R25) -/
  txMarker : Bool
  /-- the trace `tx_log` (10_state.md R26) -/
  txLog : List TxEvent
  /-- the trace `err_log` (10_state.md R26) -/
  errLog : List ErrEntry
  /-- the outcome of the last operation (60_exceptions.md R130): an observation, the model's own field -/
  outcome : OpOutcome
  /-- the operations presented to the block and not yet run, the next one first: the input and the schedule of
  20_memory.md R52 and 10_state.md R33 as data, the model's own field (assumption 1) -/
  inbox : List Request
deriving DecidableEq, Repr

/-- The state after reset (10_state.md R31). `tx_marker`, which R31 leaves unspecified, is clear (assumption 4). -/
def State.reset : State where
  pState := .idle
  pos := 0
  mType := 0
  mAddr := 0
  mLen := 0
  mData := List.replicate Config.dataCap 0
  mCrc := 0
  seen := []
  pend := []
  b2h := []
  h2b := []
  txMarker := false
  txLog := []
  errLog := []
  outcome := { errs := [], tx := [], ret := .nothing }
  inbox := []

/-- The faults of the block: none. "The model has therefore no fault state and no stuck state" (60_exceptions.md R138);
nothing raises one, which is neither safe nor unsafe. -/
inductive Fault where
deriving DecidableEq, Repr

/-- The refusals. -/
inductive Refusal where
  /-- raised by `exec` for an instruction with no meaning yet; no arm raises it. Safe: the model stops. -/
  | notModelled (mnemonic : String)
  /-- raised by `step` when the next request is no operation of the table (30_encoding.md R76: unused codes). Safe: no
  operation of the spec is shut out, and the model stops. -/
  | undecodable (e : DecodeError)
deriving DecidableEq, Repr

end Sys2Proof.Machine
end

