-- ==== Sys2Proof/Machine/Ops.lean ====
section
/-! DEFINITION. The named operations over the state that the meanings share: the outcome record, raising an error report
(what this block has in place of taking an exception), transmitting, and the bounded queues. -/

namespace Sys2Proof.Machine

/-- An operation begins: its outcome holds nothing yet (60_exceptions.md R130). -/
def beginOp (s : State) : State :=
  { s with outcome := { errs := [], tx := [], ret := .nothing } }

/-- An operation returns a value (60_exceptions.md R130). -/
def returns (r : Ret) (s : State) : State :=
  { s with outcome := { s.outcome with ret := r } }

/-- The whole run of an operation that answers a value and a state. -/
def runRet (f : State → Ret × State) (s : State) : Host.Outcome State Fault Refusal :=
  .next (returns (f (beginOp s)).1 (f (beginOp s)).2)

/-- The whole run of an operation that returns nothing. -/
def run (f : State → State) (s : State) : Host.Outcome State Fault Refusal :=
  .next (f (beginOp s))

/-- `raise K(info)`: taking an error (60_exceptions.md R130, R142). The report is appended to `err_log` and to the outcome
of the operation in progress; nothing is saved, no mode changes, control is not transferred. There is nothing to
return from (R143). -/
def raise (who : Op) (k : Report) (s : State) : State :=
  { s with errLog := s.errLog ++ [⟨who, k⟩],
           outcome := { s.outcome with errs := s.outcome.errs ++ [⟨who, k⟩] } }

/-- The code number of an error kind (60_exceptions.md R131). -/
def reportCode : Report → Nat
  | .crcMismatch _ => 1
  | .frameOverrun _ => 2
  | .queueFull _ _ => 3
  | .unknownAddress => 4
  | .oversizeLength _ => 5

/-- `tx(e)` (42_framing_gate.md R101). -/
def tx (e : TxEvent) (s : State) : State :=
  { s with txLog := s.txLog ++ [e],
           outcome := { s.outcome with tx := s.outcome.tx ++ [e] } }

/-- `tx_marker <- v` (10_state.md R25). -/
def setMarker (v : Bool) (s : State) : State :=
  { s with txMarker := v }

/-- `SEND(b)`: the byte goes out with the marker mode in force (42_framing_gate.md R101). -/
def send (b : Byte) (s : State) : State :=
  tx (.word (mkWord s.txMarker b)) s

/-- `SEND` of each byte in order. -/
def sendAll : List Byte → State → State
  | [], s => s
  | b :: rest, s => sendAll rest (send b s)

/-- `TXFRAME(f)` (42_framing_gate.md R102). The rule's operand has at least two bytes; the empty list, which no caller
and no instruction can give, sends nothing. -/
def txFrame (f : List Byte) (s : State) : State :=
  match f with
  | [] => s
  | f0 :: rest => tx .drain (sendAll rest (setMarker false (tx .drain (send f0 (setMarker true s)))))

/-- The append of `TRYINSERT(q, cap, m)` on a list (44_queue_bridge.md R120). -/
def insertList (q : List Message) (cap : Nat) (m : Message) : InsertResult × List Message :=
  if q.length = cap then (.full, q) else (.ok, q ++ [m])

/-- The removal of `POPHEAD(q)` on a list (44_queue_bridge.md R124). -/
def popList : List Message → Option Message × List Message
  | [] => (none, [])
  | m :: rest => (some m, rest)

/-- The removal of `PENDTAKE(a)` on a list: the oldest entry for the address (43_bus_relay.md R115). -/
def takeFirst (a : Byte) : List Message → Option Message × List Message
  | [] => (none, [])
  | m :: rest =>
    if m.address = a then (some m, rest)
    else ((takeFirst a rest).1, m :: (takeFirst a rest).2)

end Sys2Proof.Machine
end

