-- ==== Sys2Proof/Machine/Operands.lean ====
section
/-! DEFINITION. The operand forms: a queue selected by its name, and the Message the parser registers hold. -/

namespace Sys2Proof.Machine

/-- The content of the queue an operand names. -/
def readQueue (q : QueueId) (s : State) : List Message :=
  match q with
  | .pend => s.pend
  | .b2h => s.b2h
  | .h2b => s.h2b

/-- The queue an operand names takes a new content. -/
def writeQueue (q : QueueId) (l : List Message) (s : State) : State :=
  match q with
  | .pend => { s with pend := l }
  | .b2h => { s with b2h := l }
  | .h2b => { s with h2b := l }

/-- `cap`: the capacity of the queue an operand names, 100 for all three (00_scope.md R5, 44_queue_bridge.md R120). -/
def queueCap : QueueId → Nat
  | .pend => Config.pendCap
  | .b2h => Config.bridgeCap
  | .h2b => Config.bridgeCap

/-- A bridge FIFO as a queue. -/
def fifoQueue : FifoId → QueueId
  | .b2h => .b2h
  | .h2b => .h2b

/-- `[m_data[0], ..., m_data[n - 1]]` (41_parser.md R91); an entry past the buffer, which no index below 255 is, reads 0. -/
def dataPrefix (l : List Byte) (n : Nat) : List Byte :=
  (List.range n).map (fun i => l.getD i 0)

/-- The Message `FEED` returns at completion (41_parser.md R91). -/
def parsedMessage (s : State) : Message :=
  { type := s.mType, address := s.mAddr, length := s.mLen, data := dataPrefix s.mData s.mLen.toNat, crc := s.mCrc,
    wf := by simp [dataPrefix] }

/-- `crc[15:8] <- b` (41_parser.md R91). -/
def setCrcHi (c : Crc) (b : Byte) : Crc := crcOfBytes b (crcLo c)

/-- `crc[7:0] <- b` (41_parser.md R91). -/
def setCrcLo (c : Crc) (b : Byte) : Crc := crcOfBytes (crcHi c) b

end Sys2Proof.Machine
end

