-- ==== Sys2Proof/Machine/Codec.lean ====
section
/-! DEFINITION. The meanings of the Codec family (40_codec.md) and of `HEXLINE`: pure functions, so the state keeps
everything and the outcome holds the result (R80). -/

namespace Sys2Proof.Machine

/-- `CRC16` (40_codec.md R81). -/
def execCrc16 (bytes : List Byte) (s : State) : Host.Outcome State Fault Refusal :=
  runRet (fun t => (.u16 (crc16 bytes), t)) s

/-- `ENCODE` (40_codec.md R82). -/
def execEncode (m : Message) (s : State) : Host.Outcome State Fault Refusal :=
  runRet (fun t => (.bytes (encodeFrame m), t)) s

/-- `DECODE` (40_codec.md R83). -/
def execDecode (bytes : List Byte) (s : State) : Host.Outcome State Fault Refusal :=
  runRet (fun t => (.optMessage (decodeFrame bytes), t)) s

/-- `COMPUTECRC` (40_codec.md R84). -/
def execComputecrc (m : Message) (s : State) : Host.Outcome State Fault Refusal :=
  runRet (fun t => (.u16 (computeCrc m), t)) s

/-- `VERIFY` (40_codec.md R85). -/
def execVerify (m : Message) (s : State) : Host.Outcome State Fault Refusal :=
  runRet (fun t => (.bool (verify m), t)) s

/-- `HEXLINE` (30_encoding.md R73). -/
def execHexline (bytes : List Byte) (s : State) : Host.Outcome State Fault Refusal :=
  runRet (fun t => (.text (hexLine bytes), t)) s

end Sys2Proof.Machine
end

