-- ==== Sys2Proof/Machine/Parser.lean ====
section
/-! DEFINITION. The FrameParser family (41_parser.md): `START` and `FEED`. -/

namespace Sys2Proof.Machine

/-- `START(t)` (41_parser.md R90): a fresh Message, whatever the parser held. -/
def parserStart (t : Byte) (s : State) : State :=
  { s with mType := t, mAddr := 0, mLen := 0, mData := List.replicate Config.dataCap 0, mCrc := 0,
           pos := 1, pState := .collecting }

/-- The end of `FEED` once the byte is stored: `pos <- pos + 1` and the completion test (41_parser.md R91). -/
def feedAdvance (s : State) : FeedResult × State :=
  if 5 ≤ (s.pos + 1).toNat ∧ (s.pos + 1).toNat = 5 + s.mLen.toNat then
    (.complete (parsedMessage s), { s with pos := s.pos + 1, pState := .idle })
  else (.pending, { s with pos := s.pos + 1 })

/-- `FEED(b)` with the data capacity as an argument (41_parser.md R91, R93). -/
def feedCap (cap : Nat) (b : Byte) (s : State) : FeedResult × State :=
  match s.pState with
  | .idle => (.refused, raise .feed (.frameOverrun b) s)
  | .collecting =>
    if s.pos.toNat = 1 then feedAdvance { s with mAddr := b }
    else if s.pos.toNat = 2 then
      if cap < b.toNat then (.refused, raise .feed (.oversizeLength b) { s with pState := .idle })
      else feedAdvance { s with mLen := b }
    else if s.pos.toNat < 3 + s.mLen.toNat then
      feedAdvance { s with mData := s.mData.set (s.pos.toNat - 3) b }
    else if s.pos.toNat = 3 + s.mLen.toNat then feedAdvance { s with mCrc := setCrcHi s.mCrc b }
    else feedAdvance { s with mCrc := setCrcLo s.mCrc b }

/-- `FEED(b)` at this hardware's `DATA_CAP` (41_parser.md R91). -/
def parserFeed (b : Byte) (s : State) : FeedResult × State :=
  feedCap Config.dataCap b s

/-- `START` (41_parser.md R90). -/
def execStart (t : Byte) (s : State) : Host.Outcome State Fault Refusal :=
  run (parserStart t) s

/-- `FEED` (41_parser.md R91). -/
def execFeed (b : Byte) (s : State) : Host.Outcome State Fault Refusal :=
  runRet (fun t => (.feed (parserFeed b t).1, (parserFeed b t).2)) s

end Sys2Proof.Machine
end

