-- ==== Sys2Proof/Machine/Queue.lean ====
section
/-! DEFINITION. The bounded-queue primitives of 44_queue_bridge.md: `TRYINSERT` and `POPHEAD`. -/

namespace Sys2Proof.Machine

/-- `TRYINSERT(q, cap, m)` (44_queue_bridge.md R120): a full queue keeps what it holds, and the new Message is dropped. -/
def tryInsert (q : QueueId) (m : Message) (s : State) : InsertResult × State :=
  ((insertList (readQueue q s) (queueCap q) m).1,
   writeQueue q (insertList (readQueue q s) (queueCap q) m).2 s)

/-- `TRYINSERT`, and the report `QueueFull(q, m)` the caller makes of `Full` (60_exceptions.md R134). -/
def insertOrRaise (who : Op) (q : QueueId) (m : Message) (s : State) : InsertResult × State :=
  match tryInsert q m s with
  | (.ok, t) => (.ok, t)
  | (.full, t) => (.full, raise who (.queueFull q m) t)

/-- `POPHEAD(q)` (44_queue_bridge.md R124). -/
def popHead (q : FifoId) (s : State) : Option Message × State :=
  ((popList (readQueue (fifoQueue q) s)).1,
   writeQueue (fifoQueue q) (popList (readQueue (fifoQueue q) s)).2 s)

/-- `TRYINSERT` (44_queue_bridge.md R120): it raises nothing itself. -/
def execTryinsert (q : QueueId) (m : Message) (s : State) : Host.Outcome State Fault Refusal :=
  runRet (fun t => (.insert (tryInsert q m t).1, (tryInsert q m t).2)) s

/-- `POPHEAD` (44_queue_bridge.md R124). -/
def execPophead (q : FifoId) (s : State) : Host.Outcome State Fault Refusal :=
  runRet (fun t => (.optMessage (popHead q t).1, (popHead q t).2)) s

end Sys2Proof.Machine
end

