-- ==== Sys2Proof/Machine/Relay.lean ====
section
/-! DEFINITION. The BusRelay family (43_bus_relay.md): `BUSFRAME`, `POLL`, `ENQ`, `SEENINS`, `DEFRESP`, `PENDTAKE`. -/

namespace Sys2Proof.Machine

/-- `SEENINS(a)` (43_bus_relay.md R113): idempotent, and a full set silently keeps what it holds. -/
def seenInsert (a : Byte) (s : State) : State :=
  if a ∈ s.seen then s
  else if s.seen.length = Config.seenCap then s
  else { s with seen := s.seen ++ [a] }

/-- `PENDTAKE(a)` (43_bus_relay.md R115). -/
def pendTake (a : Byte) (s : State) : Option Message × State :=
  ((takeFirst a s.pend).1, { s with pend := (takeFirst a s.pend).2 })

/-- The Message a poll of a seen address is answered with: the entry taken, else the default response
(43_bus_relay.md R111). -/
def pollAnswer (a : Byte) (s : State) : Message :=
  match (pendTake a s).1 with
  | some q => q
  | none => defResp a

/-- `POLL(a)` (43_bus_relay.md R111): an unseen address is a silent no-op (60_exceptions.md R135). -/
def pollAddress (a : Byte) (s : State) : State :=
  if a ∈ s.seen then txFrame (encodeFrame (pollAnswer a s)) (pendTake a s).2 else s

/-- `ENQ(m)` with `SEEN_ON_FULL` as an argument (43_bus_relay.md R112, 92_eei_decisions.md D7). -/
def enqWith (seenOnFull : Bool) (m : Message) (s : State) : State :=
  match insertOrRaise .enq .pend m s with
  | (.ok, t) => seenInsert m.address t
  | (.full, t) => if seenOnFull then seenInsert m.address t else t

/-- `ENQ(m)` at this implementation's `SEEN_ON_FULL` (43_bus_relay.md R112). -/
def enqueue (m : Message) (s : State) : State :=
  enqWith Config.seenOnFull m s

/-- What is common to every frame completed from the bus: CRC check, relay to `b2h`, then the action its type selects;
a full `b2h` does not stop the action (43_bus_relay.md R110, 30_encoding.md R69). -/
def busFrameThen (m : Message) (action : State → State) (s : State) : State :=
  if verify m then action (insertOrRaise .busframe .b2h m s).2
  else raise .busframe (.crcMismatch m) s

/-- `BUSFRAME(m)` (43_bus_relay.md R110). -/
def busFrame (m : Message) (s : State) : State :=
  busFrameThen m (fun t => if m.type = Config.typePoll then pollAddress m.address t else t) s

/-- `BUSFRAME` (43_bus_relay.md R110). -/
def execBusframe (m : Message) (s : State) : Host.Outcome State Fault Refusal :=
  run (busFrame m) s

/-- `POLL` (43_bus_relay.md R111). -/
def execPoll (a : Byte) (s : State) : Host.Outcome State Fault Refusal :=
  run (pollAddress a) s

/-- `ENQ` (43_bus_relay.md R112): any Message, as corner case (c) allows. -/
def execEnq (m : Message) (s : State) : Host.Outcome State Fault Refusal :=
  run (enqueue m) s

/-- `SEENINS` (43_bus_relay.md R113). -/
def execSeenins (a : Byte) (s : State) : Host.Outcome State Fault Refusal :=
  run (seenInsert a) s

/-- `DEFRESP` (43_bus_relay.md R114): pure. -/
def execDefresp (a : Byte) (s : State) : Host.Outcome State Fault Refusal :=
  runRet (fun t => (.message (defResp a), t)) s

/-- `PENDTAKE` (43_bus_relay.md R115). -/
def execPendtake (a : Byte) (s : State) : Host.Outcome State Fault Refusal :=
  runRet (fun t => (.optMessage (pendTake a t).1, (pendTake a t).2)) s

end Sys2Proof.Machine
end

