-- ==== Sys2Proof/Machine/Gate.lean ====
section
/-! DEFINITION. The FramingGate family (42_framing_gate.md): `RXWORD` and `TXFRAME`. -/

namespace Sys2Proof.Machine

/-- `RXWORD(w)` (42_framing_gate.md R100). -/
def rxWord (w : Word9) (s : State) : State :=
  if wordMarker w then parserStart (wordByte w) s
  else
    match parserFeed (wordByte w) s with
    | (.complete m, t) => busFrame m t
    | (.pending, t) => t
    | (.refused, t) => t

/-- `RXWORD` (42_framing_gate.md R100). -/
def execRxword (w : Word9) (s : State) : Host.Outcome State Fault Refusal :=
  run (rxWord w) s

/-- `TXFRAME` (42_framing_gate.md R102). -/
def execTxframe (f0 f1 : Byte) (rest : List Byte) (s : State) : Host.Outcome State Fault Refusal :=
  run (txFrame (f0 :: f1 :: rest)) s

end Sys2Proof.Machine
end

