-- ==== Sys2Proof/Machine/Bridge.lean ====
section
/-! DEFINITION. The host side of the QueueBridge family (44_queue_bridge.md): `HSUBMIT`, `HDRAIN`, `HPOP`. -/

namespace Sys2Proof.Machine

/-- The part of `HSUBMIT` after the acceptance test (44_queue_bridge.md R121). -/
def submitAccepted (m : Message) (s : State) : Ret × State :=
  match insertOrRaise .hsubmit .h2b m s with
  | (.ok, t) => (.submit .ok, t)
  | (.full, t) => (.submit .queueFull, t)

/-- `HSUBMIT(m)` (44_queue_bridge.md R121): the test stands before the FIFO; `Rejected` reports nothing
(60_exceptions.md R137). -/
def hostSubmit (m : Message) (s : State) : Ret × State :=
  if verify m ∧ m.type = Config.typeData then submitAccepted m s else (.submit .rejected, s)

/-- `HDRAIN` (44_queue_bridge.md R122): one Message at most. -/
def hostDrain (s : State) : State :=
  match popHead .h2b s with
  | (some m, t) => enqueue m t
  | (none, t) => t

/-- `HPOP` (44_queue_bridge.md R123). -/
def hostPop (s : State) : Ret × State :=
  match popHead .b2h s with
  | (some m, t) => (.message m, t)
  | (none, t) => (.noData, t)

/-- `HSUBMIT` (44_queue_bridge.md R121). -/
def execHsubmit (m : Message) (s : State) : Host.Outcome State Fault Refusal :=
  runRet (hostSubmit m) s

/-- `HDRAIN` (44_queue_bridge.md R122). -/
def execHdrain (s : State) : Host.Outcome State Fault Refusal :=
  run hostDrain s

/-- `HPOP` (44_queue_bridge.md R123). -/
def execHpop (s : State) : Host.Outcome State Fault Refusal :=
  runRet hostPop s

end Sys2Proof.Machine
end

