-- ==== Sys2Proof/Machine/TypeMap.lean ====
section
/-! DEFINITION. The type-code map (30_encoding.md R69, R70): what a frame of each type does when it comes from the bus and
when it comes from the host. The frame is whole, so the CRC check that stands before the dispatch is made here too. -/

namespace Sys2Proof.Machine

/-- `T_POLL`: from the bus, relay and then `POLL(address)` (30_encoding.md R69); from the host, `Rejected` (R70). -/
def execTPoll (src : Origin) (m : Message) (s : State) : Host.Outcome State Fault Refusal :=
  match src with
  | .bus => run (busFrameThen m (pollAddress m.address)) s
  | .host => runRet (fun t => (.submit .rejected, t)) s

/-- `T_DATA`: from the bus, relay only (30_encoding.md R69); from the host, accepted when CRC-valid (R70). -/
def execTData (src : Origin) (m : Message) (s : State) : Host.Outcome State Fault Refusal :=
  match src with
  | .bus => run (busFrameThen m id) s
  | .host => runRet (fun t => if verify m then submitAccepted m t else (.submit .rejected, t)) s

/-- `T_OTHER`: from the bus, relay only (30_encoding.md R69, R71); from the host, `Rejected` (R70). -/
def execTOther (src : Origin) (m : Message) (s : State) : Host.Outcome State Fault Refusal :=
  match src with
  | .bus => run (busFrameThen m (fun t => t)) s
  | .host => runRet (fun t => (.submit .rejected, t)) s

end Sys2Proof.Machine
end

