-- ==== Sys2Proof/Machine/Dispatch.lean ====
section
/-! DEFINITION. `exec`: one arm per constructor of `Instr`, each one direct call of its meaning. -/

namespace Sys2Proof.Machine

def exec (i : Instr) (s : State) : Host.Outcome State Fault Refusal :=
  match i with
  | .crc16 bytes => Sys2Proof.Machine.execCrc16 bytes s
  | .encode m => Sys2Proof.Machine.execEncode m s
  | .decode bytes => Sys2Proof.Machine.execDecode bytes s
  | .computecrc m => Sys2Proof.Machine.execComputecrc m s
  | .verify m => Sys2Proof.Machine.execVerify m s
  | .start t => Sys2Proof.Machine.execStart t s
  | .feed b => Sys2Proof.Machine.execFeed b s
  | .rxword w => Sys2Proof.Machine.execRxword w s
  | .txframe f0 f1 rest => Sys2Proof.Machine.execTxframe f0 f1 rest s
  | .busframe m => Sys2Proof.Machine.execBusframe m s
  | .poll a => Sys2Proof.Machine.execPoll a s
  | .enq m => Sys2Proof.Machine.execEnq m s
  | .seenins a => Sys2Proof.Machine.execSeenins a s
  | .defresp a => Sys2Proof.Machine.execDefresp a s
  | .pendtake a => Sys2Proof.Machine.execPendtake a s
  | .tryinsert q m => Sys2Proof.Machine.execTryinsert q m s
  | .pophead q => Sys2Proof.Machine.execPophead q s
  | .hsubmit m => Sys2Proof.Machine.execHsubmit m s
  | .hdrain => Sys2Proof.Machine.execHdrain s
  | .hpop => Sys2Proof.Machine.execHpop s
  | .hexline bytes => Sys2Proof.Machine.execHexline bytes s
  | .tPoll src m => Sys2Proof.Machine.execTPoll src m s
  | .tData src m => Sys2Proof.Machine.execTData src m s
  | .tOther src m => Sys2Proof.Machine.execTOther src m s

end Sys2Proof.Machine
end

