-- ==== Sys2Proof/Machine/Fetch.lean ====
section
/-! DEFINITION. Taking the next operation presented to the block from the state (20_memory.md R52, 10_state.md R17: the block
fetches no program; the outside world presents its operations). -/

namespace Sys2Proof.Machine

/-- The next request has been taken. -/
def takeRequest (rest : List Request) (s : State) : State :=
  { s with inbox := rest }

/-- A request is presented ahead of those that wait. -/
def present (r : Request) (s : State) : State :=
  { s with inbox := r :: s.inbox }

/-- The instruction a table word stands for is presented next. -/
def presentTableWord (nbits w : Nat) (s : State) : State :=
  present (tableRequest nbits w) s

end Sys2Proof.Machine
end

