-- ==== Sys2Proof/Machine/Step.lean ====
section
/-! DEFINITION. One step: the next operation presented to the block runs as a whole (20_memory.md R52). -/

namespace Sys2Proof.Machine

/-- One whole operation. With nothing presented the block is idle and holds its state (60_exceptions.md R151). -/
def step (s : State) : Host.Outcome State Fault Refusal :=
  match s.inbox with
  | [] => .next s
  | r :: rest =>
    match decode r with
    | .ok i => exec i (takeRequest rest s)
    | .error e => .refused (.undecodable e)

/-- `s` with the instruction of a table word presented as the next operation. -/
def State.withFetchWord (s : State) (nbits w : Nat) : State :=
  presentTableWord nbits w s

end Sys2Proof.Machine
end

