-- ==== Sys2Proof/Safety.lean ====
section
/-! DEFINITION. What claims about the block are stated in: the operations started from outside, runs of several operations,
the events of a transmission, and the invariants of 10_state.md R29. -/

namespace Sys2Proof.Machine

/-- The four operations an agent outside the block can start (00_scope.md R8). -/
def external : Instr → Bool
  | .rxword _ => true
  | .hsubmit _ => true
  | .hdrain => true
  | .hpop => true
  | _ => false

/-- Operations one after another (20_memory.md R52), stopping at the first fault or refusal. -/
def execAll : List Instr → State → Host.Outcome State Fault Refusal
  | [], s => .next s
  | i :: rest, s =>
    match exec i s with
    | .next t => execAll rest t
    | .fault r => .fault r
    | .refused r => .refused r

/-- The received words of a frame: the first byte marked, the rest unmarked (30_encoding.md R63, R64). -/
def frameWords : List Byte → List Word9
  | [] => []
  | f0 :: rest => mkWord true f0 :: rest.map (mkWord false)

/-- The transmit events of a frame: the first byte marked and drained, the rest unmarked, a last drain
(42_framing_gate.md R102). -/
def frameEvents : List Byte → List TxEvent
  | [] => []
  | f0 :: rest => .word (mkWord true f0) :: .drain :: (rest.map (fun b => .word (mkWord false b)) ++ [.drain])

/-- The Message that answers a poll of a seen address when the pending queue holds `l`: the oldest entry for the address,
else the default response (43_bus_relay.md R111). -/
def pollReply (a : Byte) (l : List Message) : Message :=
  (l.find? (fun m => m.address == a)).getD (defResp a)

/-- The parser registers other than `p_state` replaced (10_state.md R12, R15). -/
def withRegisters (s : State) (pos : BitVec 9) (ty ad ln : Byte) (da : List Byte) (cr : Crc) : State :=
  { s with pos := pos, mType := ty, mAddr := ad, mLen := ln, mData := da, mCrc := cr }

/-- CRC-valid and of type `0x6c`: what `HSUBMIT` accepts (30_encoding.md R70, 44_queue_bridge.md R121). -/
abbrev Acceptable (m : Message) : Prop :=
  verify m = true ∧ m.type = Config.typeData

/-- The parser registers are in range (10_state.md R12, R29 (f)). -/
abbrev ParserOk (s : State) : Prop :=
  s.mData.length = Config.dataCap ∧
    (s.pState = .collecting → 1 ≤ s.pos.toNat ∧ (3 ≤ s.pos.toNat → s.pos.toNat ≤ 4 + s.mLen.toNat))

/-- What every operation keeps, whoever starts it: R29 (a), (b), (f), (h) of 10_state.md. R29 (c) is part of the type
`Message`. -/
structure MachineInv (s : State) : Prop where
  /-- R29 (a) -/
  seen_bound : s.seen.length ≤ Config.seenCap
  /-- R29 (a) -/
  seen_nodup : s.seen.Nodup
  /-- R29 (b) -/
  pend_bound : s.pend.length ≤ Config.pendCap
  /-- R29 (b) -/
  b2h_bound : s.b2h.length ≤ Config.bridgeCap
  /-- R29 (b) -/
  h2b_bound : s.h2b.length ≤ Config.bridgeCap
  /-- R29 (f) -/
  parser : ParserOk s
  /-- R29 (h) -/
  marker : s.txLog ≠ [] → s.txMarker = false

/-- What the operations started from outside keep besides: R29 (d), (e), (g) of 10_state.md. -/
structure RunInv (s : State) : Prop extends MachineInv s where
  /-- R29 (d) -/
  h2b_acceptable : ∀ m ∈ s.h2b, Acceptable m
  /-- R29 (d) -/
  pend_acceptable : ∀ m ∈ s.pend, Acceptable m
  /-- R29 (e) -/
  b2h_valid : ∀ m ∈ s.b2h, verify m = true
  /-- R29 (g) -/
  pend_addressed : ∀ m ∈ s.pend, m.address ∈ s.seen ∨ s.seen.length = Config.seenCap

end Sys2Proof.Machine
end

