-- ==== Sys2Proof/Certificates/Slice0/Obligations.lean ====
section
/-! DEFINITION. The statements for the provers. Each next state is written out whole, so a result statement is also the
frame: every field not named in `{ s with … }` is unchanged. -/

open Sys2Proof Sys2Proof.Machine

/-! ## Reset -/

/-- 10_state.md R31, all but `tx_marker`, which R31 leaves unspecified. -/
def Obligations.ResetLeavesTheSpecValues : Prop :=
  State.reset.pState = .idle ∧ State.reset.pos = 0 ∧ State.reset.mType = 0 ∧ State.reset.mAddr = 0 ∧
    State.reset.mLen = 0 ∧ State.reset.mData = List.replicate Config.dataCap 0 ∧ State.reset.mCrc = 0 ∧
    State.reset.seen = [] ∧ State.reset.pend = [] ∧ State.reset.b2h = [] ∧ State.reset.h2b = [] ∧
    State.reset.txLog = [] ∧ State.reset.errLog = []

/-- 70_reset_and_hazards.md R161: what each operation started from outside does first after reset. -/
def Obligations.FirstOperationAfterReset : Prop :=
  (∀ w : Word9, w.getLsbD 8 = false → exec (.rxword w) State.reset =
    .next { State.reset with
      errLog := [⟨.feed, .frameOverrun (w.setWidth 8)⟩],
      outcome := ⟨[⟨.feed, .frameOverrun (w.setWidth 8)⟩], [], .nothing⟩ }) ∧
  (∀ w : Word9, w.getLsbD 8 = true → exec (.rxword w) State.reset =
    .next { State.reset with pState := .collecting, pos := 1, mType := w.setWidth 8 }) ∧
  exec .hpop State.reset = .next { State.reset with outcome := ⟨[], [], .noData⟩ } ∧
  exec .hdrain State.reset = .next State.reset ∧
  (∀ m, verify m = true → m.type = 0x6c → exec (.hsubmit m) State.reset =
    .next { State.reset with h2b := [m], outcome := ⟨[], [], .submit .ok⟩ }) ∧
  (∀ m, verify m = true → m.type = 0x4c → exec (.busframe m) State.reset = .next { State.reset with b2h := [m] })

/-- The state after reset meets both invariants; its clear `tx_marker` is the model's choice (assumption 4). -/
def Obligations.ResetMeetsInvariants : Prop :=
  MachineInv State.reset ∧ RunInv State.reset

/-! ## Fetch, decode, encode -/

/-- The next request runs as the instruction it decodes to; with none, nothing happens; no operation is refused by name. -/
def Obligations.StepRunsTheDecodedInstruction : Prop :=
  (∀ s r rest i, s.inbox = r :: rest → decode r = .ok i → i.wellFormed = true →
    step s = exec i { s with inbox := rest }) ∧
  (∀ s, s.inbox = [] → step s = .next s) ∧
  (∀ s r rest e, s.inbox = r :: rest → decode r = .error e → step s = .refused (.undecodable e))

/-- A table word that decodes runs as the very next instruction, and the state is otherwise the one it was placed in. -/
def Obligations.FetchWordRunsNext : Prop :=
  ∀ s nbits w i, decodeTableWord nbits w = some i → step (s.withFetchWord nbits w) = exec i s

/-- Words written out from 30_encoding.md R63, R69, R76. -/
def Obligations.SpecWordsDecode : Prop :=
  decodeTableWord 9 0x14c = some (.start 0x4c) ∧ decodeTableWord 9 0x04c = some (.feed 0x4c) ∧
    decodeTableWord 9 0x1ff = some (.start 0xff) ∧ decodeTableWord 9 0x000 = some (.feed 0x00) ∧
    decodeTableWord 5 0b10010 = some .hdrain ∧ decodeTableWord 5 0b10011 = some .hpop ∧
    decode ⟨.opsel, [0b00111, 0x4c, 0x01]⟩ = .ok (.rxword 0x14c) ∧
    decode ⟨.typeByte .bus, [0x4c, 0x10, 0x00, 0x6b, 0xbf]⟩ = .ok (.tPoll .bus ⟨0x4c, 0x10, 0, [], 0x6bbf, rfl⟩) ∧
    decode ⟨.opsel, [0b10101]⟩ = .error (.unusedOpsel 0b10101)

/-- Decode after encode is the identity, for every instruction with every operand the encoding admits. -/
def Obligations.DecodeInvertsEncode : Prop :=
  ∀ i : Instr, i.wellFormed = true → decode (encode i) = .ok i

/-- What the decoder accepts is well-formed, and encodes back to the same request, but for the second spelling of `START`
and `FEED` by their operation-select codes 5 and 6. -/
def Obligations.EncodeInvertsDecode : Prop :=
  ∀ r i, decode r = .ok i → i.wellFormed = true ∧
    ((r.fmt = .opsel → r.bytes.head? ≠ some 5 ∧ r.bytes.head? ≠ some 6) → encode i = r)

/-! ## The Codec family -/

/-- 40_codec.md R81: the loop, its result for `CRC16`, and the source's check value. -/
def Obligations.Crc16FoldsBytesMsbFirst : Prop :=
  (∀ bytes s, exec (.crc16 bytes) s = .next { s with outcome := ⟨[], [], .u16 (crc16 bytes)⟩ }) ∧
  crc16 [] = 0 ∧ (∀ l b, crc16 (l ++ [b]) = crcByte (crc16 l) b) ∧
  (∀ c b, crcByte c b = (List.range 8).foldl
    (fun (x : Crc) _ => if x.getLsbD 15 then (x <<< 1) ^^^ 0x1021#16 else x <<< 1) (c ^^^ (b.setWidth 16 <<< 8))) ∧
  crc16 [0x31, 0x32, 0x33, 0x34, 0x35, 0x36, 0x37, 0x38, 0x39] = 0x31c3

/-- 40_codec.md R81, the equivalent definition (93_implementation_defined.md G3): with bits read most significant first as
a polynomial over GF(2), the CRC is the remainder of `M(x) * x^16` by `x^16 + x^12 + x^5 + 1`. -/
def Obligations.Crc16IsPolynomialRemainder : Prop :=
  ∀ l : List Byte,
    let poly : List Bool → Polynomial (ZMod 2) := fun bits =>
      bits.foldl (fun p b => p * Polynomial.X + (if b then 1 else 0)) 0
    poly ((List.range 16).map (fun i => (crc16 l).getMsbD i)) =
      (poly (l.flatMap (fun b => (List.range 8).map (fun i => b.getMsbD i))) * Polynomial.X ^ 16) %ₘ
        (Polynomial.X ^ 16 + Polynomial.X ^ 12 + Polynomial.X ^ 5 + 1)

/-- 40_codec.md R86 (d): a list with its CRC appended, high byte first, has CRC 0; a frame is CRC-valid exactly when its
whole CRC is 0. -/
def Obligations.CrcResidueIsZero : Prop :=
  (∀ l : List Byte, crc16 (l ++ [(crc16 l).extractLsb' 8 8, (crc16 l).setWidth 8]) = 0) ∧
    (∀ m, verify m = true ↔ crc16 (encodeFrame m) = 0)

/-- 95_test_vectors.md part 2.1 (93_implementation_defined.md G7): the byte-at-a-time identity of `CRCBYTE`. -/
def Obligations.CrcByteIsTableLookup : Prop :=
  ∀ (c : Crc) (b : Byte), crcByte c b = crcByte 0 (b ^^^ c.extractLsb' 8 8) ^^^ (c <<< 8)

/-- 40_codec.md R82. -/
def Obligations.EncodeWritesTheFrame : Prop :=
  ∀ m s, exec (.encode m) s = .next { s with outcome := ⟨[], [], .bytes
      ([m.type, m.address, m.length] ++ m.data ++ [m.crc.extractLsb' 8 8, m.crc.setWidth 8])⟩ } ∧
    (encodeFrame m).length = 5 + m.length.toNat

/-- 40_codec.md R83. -/
def Obligations.DecodeReadsTheFrame : Prop :=
  ∀ (bytes : List Byte) (s : State),
    if bytes.length < 3 ∨ bytes.length < 5 + (bytes.getD 2 0).toNat then
      exec (.decode bytes) s = .next { s with outcome := ⟨[], [], .optMessage none⟩ }
    else ∃ m, exec (.decode bytes) s = .next { s with outcome := ⟨[], [], .optMessage (some m)⟩ } ∧
      m.type = bytes.getD 0 0 ∧ m.address = bytes.getD 1 0 ∧ m.length = bytes.getD 2 0 ∧
      m.data = (bytes.drop 3).take (bytes.getD 2 0).toNat ∧
      m.crc = ((bytes.getD (3 + (bytes.getD 2 0).toNat) 0).setWidth 16 <<< 8) ^^^
        (bytes.getD (4 + (bytes.getD 2 0).toNat) 0).setWidth 16

/-- 40_codec.md R84, R85. -/
def Obligations.ComputeCrcAndVerify : Prop :=
  ∀ m s, exec (.computecrc m) s = .next { s with outcome := ⟨[], [], .u16
      (crc16 ([m.type, m.address, m.length] ++ m.data))⟩ } ∧
    exec (.verify m) s = .next { s with outcome := ⟨[], [], .bool
      (crc16 ([m.type, m.address, m.length] ++ m.data) == m.crc)⟩ }

/-- 40_codec.md R86 (a), and R83: bytes beyond the frame are ignored. -/
def Obligations.DecodeOfEncodedMessage : Prop :=
  ∀ (m : Message) (more : List Byte), decodeFrame (encodeFrame m ++ more) = some m

/-- 40_codec.md R86 (b). -/
def Obligations.EncodeOfDecodedFrame : Prop :=
  ∀ b : List Byte, 5 ≤ b.length → b.length = 5 + (b.getD 2 0).toNat →
    ∃ m, decodeFrame b = some m ∧ encodeFrame m = b

/-- 30_encoding.md R73. -/
def Obligations.HexLineWritesTwoDigitsAByte : Prop :=
  ∀ (bytes : List Byte) (s : State), ∃ l : List Char,
    exec (.hexline bytes) s = .next { s with outcome := ⟨[], [], .text l⟩ } ∧
    l.length = 2 * bytes.length + 1 ∧ l.getLast? = some '\n' ∧
    ∀ i < bytes.length,
      l[2 * i]? = ['0', '1', '2', '3', '4', '5', '6', '7', '8', '9', 'a', 'b', 'c', 'd', 'e', 'f'][((bytes.getD i 0).extractLsb' 4 4).toNat]? ∧
      l[2 * i + 1]? = ['0', '1', '2', '3', '4', '5', '6', '7', '8', '9', 'a', 'b', 'c', 'd', 'e', 'f'][((bytes.getD i 0).setWidth 4).toNat]?

/-! ## The FrameParser family -/

/-- 41_parser.md R90: whatever the parser held. -/
def Obligations.StartOpensAFreshFrame : Prop :=
  ∀ (t : Byte) (s : State), exec (.start t) s = .next { s with
    pState := .collecting, pos := 1, mType := t, mAddr := 0, mLen := 0, mData := List.replicate Config.dataCap 0, mCrc := 0,
    outcome := ⟨[], [], .nothing⟩ }

/-- 60_exceptions.md R133: an unmarked byte with no frame open is reported and consumed into no field. -/
def Obligations.FeedInIdleIsFrameOverrun : Prop :=
  ∀ (b : Byte) (s : State), s.pState = .idle → exec (.feed b) s = .next { s with
    errLog := s.errLog ++ [⟨.feed, .frameOverrun b⟩],
    outcome := ⟨[⟨.feed, .frameOverrun b⟩], [], .feed .refused⟩ }

/-- 41_parser.md R91, `p_state == Collecting`, position by position; at `DATA_CAP = 255` the guard never holds. -/
def Obligations.FeedStoresByPosition : Prop :=
  ∀ (b : Byte) (s : State), s.pState = .collecting → ParserOk s →
    (s.pos.toNat = 1 → exec (.feed b) s = .next { s with
      mAddr := b, pos := 2, outcome := ⟨[], [], .feed .pending⟩ }) ∧
    (s.pos.toNat = 2 → exec (.feed b) s = .next { s with
      mLen := b, pos := 3, outcome := ⟨[], [], .feed .pending⟩ }) ∧
    (3 ≤ s.pos.toNat → s.pos.toNat < 3 + s.mLen.toNat → exec (.feed b) s = .next { s with
      mData := s.mData.set (s.pos.toNat - 3) b, pos := s.pos + 1, outcome := ⟨[], [], .feed .pending⟩ }) ∧
    (s.pos.toNat = 3 + s.mLen.toNat → exec (.feed b) s = .next { s with
      mCrc := (b.setWidth 16 <<< 8) ^^^ (s.mCrc &&& 0x00ff#16), pos := s.pos + 1,
      outcome := ⟨[], [], .feed .pending⟩ }) ∧
    (s.pos.toNat = 4 + s.mLen.toNat → ∃ m, exec (.feed b) s = .next { s with
        mCrc := (s.mCrc &&& 0xff00#16) ^^^ b.setWidth 16, pos := s.pos + 1, pState := .idle,
        outcome := ⟨[], [], .feed (.complete m)⟩ } ∧
      m.type = s.mType ∧ m.address = s.mAddr ∧ m.length = s.mLen ∧ m.data = s.mData.take s.mLen.toNat ∧
      m.crc = (s.mCrc &&& 0xff00#16) ^^^ b.setWidth 16)

/-- 41_parser.md R93 for any data capacity (92_eei_decisions.md D10), and its dead branch at 255. -/
def Obligations.OversizeLengthGuard : Prop :=
  (∀ cap (b : Byte) (s : State), s.pState = .collecting → s.pos = 2 → cap < b.toNat →
    feedCap cap b s = (.refused, { s with
      pState := .idle,
      errLog := s.errLog ++ [⟨.feed, .oversizeLength b⟩],
      outcome := { s.outcome with errs := s.outcome.errs ++ [⟨.feed, .oversizeLength b⟩] } })) ∧
  (∀ cap (b : Byte) (s : State), s.pState = .collecting → s.pos = 2 → b.toNat ≤ cap →
    feedCap cap b s = (.pending, { s with mLen := b, pos := 3 })) ∧
  (∀ b : Byte, ¬ Config.dataCap < b.toNat)

/-- 41_parser.md R94 (a), 42_framing_gate.md R104: from any state, the words of a frame end in `BUSFRAME` of exactly that
Message, and no strict prefix of them completes a frame, relays, reports or transmits. The zeros past the length
in `m_data` are those of `START` (R90, decision D9, assumption 7). -/
def Obligations.FrameWordsDeliverTheMessage : Prop :=
  ∀ (m : Message) (s : State),
    execAll ((frameWords (encodeFrame m)).map .rxword) s = exec (.busframe m) { s with
      pState := .idle, pos := BitVec.ofNat 9 (5 + m.length.toNat), mType := m.type, mAddr := m.address,
      mLen := m.length, mData := m.data ++ List.replicate (Config.dataCap - m.length.toNat) 0, mCrc := m.crc } ∧
    ∀ k < 5 + m.length.toNat, ∃ t,
      execAll (((frameWords (encodeFrame m)).take k).map .rxword) s = .next t ∧
      (1 ≤ k → t.pState = .collecting ∧ t.pos.toNat = k) ∧
      t.seen = s.seen ∧ t.pend = s.pend ∧ t.b2h = s.b2h ∧ t.h2b = s.h2b ∧ t.txMarker = s.txMarker ∧
      t.txLog = s.txLog ∧ t.errLog = s.errLog

/-- 30_encoding.md R75, 43_bus_relay.md R111: from any state with the address seen and room in `b2h`, the five received
words of a poll frame relay it and transmit the reply, once. A pending entry goes out with its CRC as stored (decision D16,
assumption 18). -/
def Obligations.PollFrameWordsAreAnswered : Prop :=
  ∀ (a : Byte) (s : State), a ∈ s.seen → s.b2h.length ≠ 100 → ∃ t,
    execAll ((frameWords (encodeFrame (pollMessage a))).map .rxword) s = .next t ∧
    t.txLog = s.txLog ++ frameEvents (encodeFrame (pollReply a s.pend)) ∧
    t.pend = s.pend.eraseP (fun q => q.address == a) ∧ t.b2h = s.b2h ++ [pollMessage a] ∧
    t.errLog = s.errLog ∧ t.seen = s.seen ∧ t.h2b = s.h2b

/-- 41_parser.md R94 (b): the state after a marked word does not depend on the parser state before it. -/
def Obligations.MarkedWordResynchronises : Prop :=
  ∀ (s : State) (w : Word9) (p : PState) pos ty ad ln da cr, w.getLsbD 8 = true →
    exec (.rxword w) (withRegisters { s with pState := p } pos ty ad ln da cr) = exec (.rxword w) s

/-- 10_state.md R15: with the parser idle, no operation started from outside reads the other parser registers. -/
def Obligations.IdleRegistersAreNotRead : Prop :=
  ∀ (i : Instr) (s : State) pos ty ad ln da cr, external i = true → s.pState = .idle → ∃ t, exec i s = .next t ∧
    (exec i (withRegisters s pos ty ad ln da cr) = .next t ∨
      exec i (withRegisters s pos ty ad ln da cr) = .next (withRegisters t pos ty ad ln da cr))

/-! ## The FramingGate family -/

/-- 42_framing_gate.md R100. The zero fields of a fresh frame are decision D9 in 41_parser.md R90 (assumption 7). -/
def Obligations.RxwordStartsOrFeeds : Prop :=
  ∀ (w : Word9) (s : State),
    (w.getLsbD 8 = true → exec (.rxword w) s = .next { s with
      pState := .collecting, pos := 1, mType := w.setWidth 8, mAddr := 0, mLen := 0, mData := List.replicate Config.dataCap 0,
      mCrc := 0, outcome := ⟨[], [], .nothing⟩ }) ∧
    (w.getLsbD 8 = false → ∃ r t u, exec (.feed (w.setWidth 8)) s = .next t ∧ t.outcome.ret = .feed r ∧
      exec (.rxword w) s = .next u ∧
      (∀ m, r = .complete m → exec (.busframe m) t = .next u) ∧
      ((∀ m, r ≠ .complete m) → u = { t with outcome := { t.outcome with ret := .nothing } }))

/-- 42_framing_gate.md R102, 30_encoding.md R64. -/
def Obligations.TxframeMarksOnlyTheFirstByte : Prop :=
  ∀ (f0 f1 : Byte) (rest : List Byte) (s : State),
    let events : List TxEvent := [.word (0x100#9 ||| f0.setWidth 9), .drain] ++
      (f1 :: rest).map (fun b => .word (b.setWidth 9)) ++ [.drain]
    exec (.txframe f0 f1 rest) s = .next { s with
      txMarker := false, txLog := s.txLog ++ events, outcome := ⟨[], events, .nothing⟩ }

/-! ## The BusRelay family -/

/-- 43_bus_relay.md R110, 60_exceptions.md R132: a frame that fails the CRC is reported and changes nothing else. -/
def Obligations.BusframeDropsBadCrc : Prop :=
  ∀ (m : Message) (s : State), verify m = false → exec (.busframe m) s = .next { s with
    errLog := s.errLog ++ [⟨.busframe, .crcMismatch m⟩],
    outcome := ⟨[⟨.busframe, .crcMismatch m⟩], [], .nothing⟩ }

/-- 43_bus_relay.md R110: a CRC-valid frame that is no poll is relayed, or reported lost when `b2h` is full. -/
def Obligations.BusframeRelaysOtherTypes : Prop :=
  ∀ (m : Message) (s : State), verify m = true → m.type ≠ 0x4c →
    (s.b2h.length ≠ 100 → exec (.busframe m) s = .next { s with
      b2h := s.b2h ++ [m], outcome := ⟨[], [], .nothing⟩ }) ∧
    (s.b2h.length = 100 → exec (.busframe m) s = .next { s with
      errLog := s.errLog ++ [⟨.busframe, .queueFull .b2h m⟩],
      outcome := ⟨[⟨.busframe, .queueFull .b2h m⟩], [], .nothing⟩ })

/-- 43_bus_relay.md R110, R111: a CRC-valid poll is relayed and answered, whether or not `b2h` had room. -/
def Obligations.BusframeAnswersPolls : Prop :=
  ∀ (m : Message) (s : State), verify m = true → m.type = 0x4c →
    let errs : List ErrEntry := if s.b2h.length = 100 then [⟨.busframe, .queueFull .b2h m⟩] else []
    let u : State := { s with
      b2h := if s.b2h.length = 100 then s.b2h else s.b2h ++ [m],
      errLog := s.errLog ++ errs,
      outcome := ⟨errs, [], .nothing⟩ }
    let events := frameEvents (encodeFrame (pollReply m.address s.pend))
    (m.address ∉ s.seen → exec (.busframe m) s = .next u) ∧
    (m.address ∈ s.seen → exec (.busframe m) s = .next { u with
      pend := s.pend.eraseP (fun q => q.address == m.address),
      txMarker := false, txLog := s.txLog ++ events, outcome := ⟨errs, events, .nothing⟩ })

/-- 43_bus_relay.md R111. -/
def Obligations.PollTransmitsOneFrame : Prop :=
  ∀ (a : Byte) (s : State),
    let events := frameEvents (encodeFrame (pollReply a s.pend))
    (a ∉ s.seen → exec (.poll a) s = .next { s with outcome := ⟨[], [], .nothing⟩ }) ∧
    (a ∈ s.seen → exec (.poll a) s = .next { s with
      pend := s.pend.eraseP (fun q => q.address == a),
      txMarker := false, txLog := s.txLog ++ events, outcome := ⟨[], events, .nothing⟩ })

/-- 43_bus_relay.md R112 with room in `pend`. -/
def Obligations.EnqAppendsAndMarksSeen : Prop :=
  ∀ (m : Message) (s : State), s.pend.length ≠ 100 → exec (.enq m) s = .next { s with
    pend := s.pend ++ [m],
    seen := if m.address ∈ s.seen ∨ s.seen.length = 10 then s.seen else s.seen ++ [m.address],
    outcome := ⟨[], [], .nothing⟩ }

/-- 43_bus_relay.md R112 with `pend` full, for both values of `SEEN_ON_FULL` (92_eei_decisions.md D7). -/
def Obligations.EnqOnFullQueue : Prop :=
  ∀ (m : Message) (s : State), s.pend.length = 100 →
    let e : ErrEntry := ⟨.enq, .queueFull .pend m⟩
    let marked := if m.address ∈ s.seen ∨ s.seen.length = 10 then s.seen else s.seen ++ [m.address]
    (∀ k : Bool, enqWith k m s = { s with
      seen := if k then marked else s.seen, errLog := s.errLog ++ [e],
      outcome := { s.outcome with errs := s.outcome.errs ++ [e] } }) ∧
    exec (.enq m) s = .next { s with
      seen := if Config.seenOnFull then marked else s.seen, errLog := s.errLog ++ [e],
      outcome := ⟨[e], [], .nothing⟩ }

/-- 43_bus_relay.md R113. -/
def Obligations.SeeninsIsIdempotentAndBounded : Prop :=
  ∀ (a : Byte) (s : State),
    (a ∈ s.seen → exec (.seenins a) s = .next { s with outcome := ⟨[], [], .nothing⟩ }) ∧
    (a ∉ s.seen → s.seen.length = 10 → exec (.seenins a) s = .next { s with outcome := ⟨[], [], .nothing⟩ }) ∧
    (a ∉ s.seen → s.seen.length ≠ 10 → exec (.seenins a) s = .next { s with
      seen := s.seen ++ [a], outcome := ⟨[], [], .nothing⟩ })

/-- 43_bus_relay.md R114. -/
def Obligations.DefrespFillsTheTemplate : Prop :=
  ∀ (a : Byte) (s : State), ∃ d : Message,
    exec (.defresp a) s = .next { s with outcome := ⟨[], [], .message d⟩ } ∧
    d.type = 0x6c ∧ d.address = a ∧ d.length = 2 ∧ d.data = [0x00, 0xff] ∧
    d.crc = crc16 [0x6c, a, 0x02, 0x00, 0xff] ∧ verify d = true

/-- 43_bus_relay.md R115. -/
def Obligations.PendtakeRemovesTheFirstMatch : Prop :=
  ∀ (a : Byte) (s : State),
    ((∀ m ∈ s.pend, m.address ≠ a) → exec (.pendtake a) s = .next { s with outcome := ⟨[], [], .optMessage none⟩ }) ∧
    (∀ before q after, s.pend = before ++ q :: after → (∀ m ∈ before, m.address ≠ a) → q.address = a →
      exec (.pendtake a) s = .next { s with
        pend := before ++ after, outcome := ⟨[], [], .optMessage (some q)⟩ })

/-! ## The QueueBridge family -/

/-- 44_queue_bridge.md R120, for each of the three queues. -/
def Obligations.TryinsertRefusesAtCapacity : Prop :=
  ∀ (q : QueueId) (m : Message) (s : State),
    ((readQueue q s).length = 100 → exec (.tryinsert q m) s = .next { s with outcome := ⟨[], [], .insert .full⟩ }) ∧
    ((readQueue q s).length ≠ 100 → exec (.tryinsert q m) s =
      .next (writeQueue q (readQueue q s ++ [m]) { s with outcome := ⟨[], [], .insert .ok⟩ }))

/-- 44_queue_bridge.md R124. -/
def Obligations.PopheadTakesTheOldest : Prop :=
  ∀ s : State,
    (s.b2h = [] → exec (.pophead .b2h) s = .next { s with outcome := ⟨[], [], .optMessage none⟩ }) ∧
    (s.h2b = [] → exec (.pophead .h2b) s = .next { s with outcome := ⟨[], [], .optMessage none⟩ }) ∧
    (∀ m rest, s.b2h = m :: rest → exec (.pophead .b2h) s = .next { s with
      b2h := rest, outcome := ⟨[], [], .optMessage (some m)⟩ }) ∧
    (∀ m rest, s.h2b = m :: rest → exec (.pophead .h2b) s = .next { s with
      h2b := rest, outcome := ⟨[], [], .optMessage (some m)⟩ })

/-- 44_queue_bridge.md R121. -/
def Obligations.HsubmitTestsThenInserts : Prop :=
  ∀ (m : Message) (s : State),
    (verify m = false ∨ m.type ≠ 0x6c → exec (.hsubmit m) s = .next { s with outcome := ⟨[], [], .submit .rejected⟩ }) ∧
    (verify m = true → m.type = 0x6c → s.h2b.length ≠ 100 → exec (.hsubmit m) s = .next { s with
      h2b := s.h2b ++ [m], outcome := ⟨[], [], .submit .ok⟩ }) ∧
    (verify m = true → m.type = 0x6c → s.h2b.length = 100 → exec (.hsubmit m) s = .next { s with
      errLog := s.errLog ++ [⟨.hsubmit, .queueFull .h2b m⟩],
      outcome := ⟨[⟨.hsubmit, .queueFull .h2b m⟩], [], .submit .queueFull⟩ })

/-- 44_queue_bridge.md R122: nothing on an empty FIFO; else the oldest Message leaves `h2b` and goes to `ENQ`. -/
def Obligations.HdrainMovesOneMessage : Prop :=
  ∀ s : State,
    (s.h2b = [] → exec .hdrain s = .next { s with outcome := ⟨[], [], .nothing⟩ }) ∧
    (∀ m rest, s.h2b = m :: rest → exec .hdrain s = exec (.enq m) { s with h2b := rest }) ∧
    (∀ m rest, s.h2b = m :: rest → s.pend.length ≠ 100 → exec .hdrain s = .next { s with
      h2b := rest, pend := s.pend ++ [m],
      seen := if m.address ∈ s.seen ∨ s.seen.length = 10 then s.seen else s.seen ++ [m.address],
      outcome := ⟨[], [], .nothing⟩ })

/-- 44_queue_bridge.md R123. -/
def Obligations.HpopReturnsTheOldest : Prop :=
  ∀ s : State,
    (s.b2h = [] → exec .hpop s = .next { s with outcome := ⟨[], [], .noData⟩ }) ∧
    (∀ m rest, s.b2h = m :: rest → exec .hpop s = .next { s with b2h := rest, outcome := ⟨[], [], .message m⟩ })

/-! ## The type-code map -/

/-- 30_encoding.md R69, R70: what each row does with a CRC-valid frame while the FIFO it goes to has room.
A pending entry goes out with its CRC as stored and a poll may have any length (43_bus_relay.md R111, decisions D16, D19,
assumption 18); what the host's other types get is decision D6 (assumption 17). On a Message with another type byte than the
row names, a row is the model's own (assumption 11). -/
def Obligations.TypeRowsAct : Prop :=
  ∀ (m : Message) (s : State), verify m = true →
    let relayed : State := { s with b2h := s.b2h ++ [m], outcome := ⟨[], [], .nothing⟩ }
    let events := frameEvents (encodeFrame (pollReply m.address s.pend))
    (s.b2h.length ≠ 100 →
      exec (.tData .bus m) s = .next relayed ∧ exec (.tOther .bus m) s = .next relayed ∧
      (m.address ∉ s.seen → exec (.tPoll .bus m) s = .next relayed) ∧
      (m.address ∈ s.seen → exec (.tPoll .bus m) s = .next { relayed with
        pend := s.pend.eraseP (fun q => q.address == m.address),
        txMarker := false, txLog := s.txLog ++ events, outcome := ⟨[], events, .nothing⟩ })) ∧
    (s.h2b.length ≠ 100 → exec (.tData .host m) s = .next { s with
      h2b := s.h2b ++ [m], outcome := ⟨[], [], .submit .ok⟩ }) ∧
    exec (.tPoll .host m) s = .next { s with outcome := ⟨[], [], .submit .rejected⟩ } ∧
    exec (.tOther .host m) s = .next { s with outcome := ⟨[], [], .submit .rejected⟩ }

/-- 30_encoding.md R69, R70: in every state the rows do together what `BUSFRAME` and `HSUBMIT` do. -/
def Obligations.TypeRowsAgreeWithBusframeAndHsubmit : Prop :=
  ∀ (i : Instr) (m : Message) (s : State), i.wellFormed = true →
    (i = .tPoll .bus m ∨ i = .tData .bus m ∨ i = .tOther .bus m → exec i s = exec (.busframe m) s) ∧
    (i = .tPoll .host m ∨ i = .tData .host m ∨ i = .tOther .host m → exec i s = exec (.hsubmit m) s)

/-! ## The whole machine -/

/-- 60_exceptions.md R138: every operation is enabled in every state and ends; none touches what waits to be run. -/
def Obligations.EveryOperationEnds : Prop :=
  ∀ (i : Instr) (s : State), ∃ t, exec i s = .next t ∧ t.inbox = s.inbox

/-- 10_state.md R29 (a), (b), (f), (h): every step keeps them, whichever operation it runs. -/
def Obligations.StepKeepsMachineInv : Prop :=
  ∀ s t : State, MachineInv s → step s = .next t → MachineInv t

/-- 10_state.md R29: every step that runs an operation started from outside keeps all of it. -/
def Obligations.ExternalStepKeepsRunInv : Prop :=
  ∀ s t : State, RunInv s →
    (∀ r rest i, s.inbox = r :: rest → decode r = .ok i → external i = true) → step s = .next t → RunInv t

/-- 43_bus_relay.md R116 (f), 70_reset_and_hazards.md R170: `seen` only grows, and a full set never changes. -/
def Obligations.SeenOnlyGrows : Prop :=
  ∀ (i : Instr) (s t : State), exec i s = .next t → s.seen <+: t.seen ∧ (s.seen.length = 10 → t.seen = s.seen)

/-- 60_exceptions.md R130, 10_state.md R26: the traces are append-only, and grow by exactly what the outcome holds. -/
def Obligations.TracesGrowByTheOutcome : Prop :=
  ∀ (i : Instr) (s t : State), exec i s = .next t →
    t.txLog = s.txLog ++ t.outcome.tx ∧ t.errLog = s.errLog ++ t.outcome.errs

/-- 60_exceptions.md R131, R135, R136: the only reports, and who raises them; neither UnknownAddress nor OversizeLength. -/
def Obligations.OnlyTheThreeLiveErrorKinds : Prop :=
  ∀ (i : Instr) (s t : State), exec i s = .next t → ∀ e ∈ t.outcome.errs,
    (∃ m, e = ⟨.busframe, .crcMismatch m⟩) ∨ (∃ b, e = ⟨.feed, .frameOverrun b⟩) ∨
    (∃ m, e = ⟨.busframe, .queueFull .b2h m⟩) ∨ (∃ m, e = ⟨.enq, .queueFull .pend m⟩) ∨
    (∃ m, e = ⟨.hsubmit, .queueFull .h2b m⟩)

/-- 60_exceptions.md R140: an operation started from outside reports at most one error, and the only one that can
accompany a transmission is QueueFull(B2H). -/
def Obligations.AtMostOneReport : Prop :=
  ∀ (i : Instr) (s t : State), external i = true → exec i s = .next t →
    t.outcome.errs.length ≤ 1 ∧
    (t.outcome.tx ≠ [] → ∀ e ∈ t.outcome.errs, ∃ m, e = ⟨.busframe, .queueFull .b2h m⟩)

/-- 43_bus_relay.md R116 (g): an operation started from outside transmits nothing, or one frame that is CRC-valid and of
type `0x6c`. -/
def Obligations.TransmittedFramesAreValid : Prop :=
  ∀ (i : Instr) (s t : State), RunInv s → external i = true → exec i s = .next t →
    t.outcome.tx = [] ∨ ∃ q, verify q = true ∧ q.type = 0x6c ∧ t.outcome.tx = frameEvents (encodeFrame q)

/-- 20_memory.md R58: what waits in `h2b` has no effect on a received word. That `HDRAIN` is never
inside an `RXWORD` is decision D5 (assumption 16). -/
def Obligations.RxwordIgnoresHostQueue : Prop :=
  ∀ (w : Word9) (s : State) (l : List Message), ∃ t, exec (.rxword w) s = .next t ∧
    exec (.rxword w) { s with h2b := l } = .next { t with h2b := l }

/-- 20_memory.md R52, 60_exceptions.md R141: `HSUBMIT` and `RXWORD`, and `HPOP` and `HDRAIN`, reach the same state in either
order, but for the order of reports and for the outcome, which holds the return values. That whole operations follow one
another, `HDRAIN` among them, is decisions D4, D5 (assumptions 15, 16). -/
def Obligations.ContextsCommute : Prop :=
  (∀ (m : Message) (w : Word9) (s : State), ∃ t u,
    execAll [.hsubmit m, .rxword w] s = .next t ∧ execAll [.rxword w, .hsubmit m] s = .next u ∧
    t = { u with errLog := t.errLog, outcome := t.outcome } ∧ t.errLog.Perm u.errLog) ∧
  (∀ s : State, ∃ t u, execAll [.hpop, .hdrain] s = .next t ∧ execAll [.hdrain, .hpop] s = .next u ∧
    t = { u with outcome := t.outcome })

/-- 43_bus_relay.md R116 (c): of the Messages submitted into an empty FIFO exactly the first 100 are present, and each
further one is reported. -/
def Obligations.SubmitKeepsTheFirstHundred : Prop :=
  ∀ (ms : List Message) (s : State), s.h2b = [] → (∀ m ∈ ms, verify m = true ∧ m.type = 0x6c) →
    ∃ t, execAll (ms.map .hsubmit) s = .next t ∧ t.h2b = ms.take 100 ∧
      t.errLog = s.errLog ++ (ms.drop 100).map (fun m => ⟨.hsubmit, .queueFull .h2b m⟩)

/-- 44_queue_bridge.md R120, 43_bus_relay.md R116 (c), for each of the three queues. -/
def Obligations.TryinsertKeepsTheFirstHundred : Prop :=
  ∀ (q : QueueId) (ms : List Message) (s : State), readQueue q s = [] →
    ∃ t, execAll (ms.map (.tryinsert q)) s = .next t ∧ readQueue q t = ms.take 100

/-- 20_memory.md R53, 44_queue_bridge.md R126 (d): Messages leave each bridge FIFO in the order they stand in it. -/
def Obligations.BridgeFifosKeepOrder : Prop :=
  (∀ (n : Nat) (s : State), n ≤ s.h2b.length → s.pend.length + n ≤ 100 →
    ∃ t, execAll (List.replicate n .hdrain) s = .next t ∧
      t.pend = s.pend ++ s.h2b.take n ∧ t.h2b = s.h2b.drop n) ∧
  (∀ (n : Nat) (s : State) (m : Message), s.b2h[n]? = some m →
    ∃ t, execAll (List.replicate (n + 1) .hpop) s = .next t ∧
      t.b2h = s.b2h.drop (n + 1) ∧ t.outcome.ret = .message m)

/-- 20_memory.md R54: a poll answers with the oldest entry for its address and keeps the order of all others. The
entry goes out with its CRC as stored (decision D16, assumption 18). -/
def Obligations.PollsKeepOrderPerAddress : Prop :=
  ∀ (a : Byte) (s : State), a ∈ s.seen → ∃ t, exec (.poll a) s = .next t ∧
    t.outcome.tx = frameEvents (encodeFrame ((s.pend.filter (fun m => m.address == a)).head?.getD (defResp a))) ∧
    t.pend.filter (fun m => m.address == a) = (s.pend.filter (fun m => m.address == a)).tail ∧
    t.pend.filter (fun m => !(m.address == a)) = s.pend.filter (fun m => !(m.address == a))

/-- 70_reset_and_hazards.md R169 (a): once the seen set is full, no operation started from outside removes or reorders the
entries of an address it does not hold. -/
def Obligations.UntrackedEntriesNeverLeave : Prop :=
  ∀ (i : Instr) (s t : State) (a : Byte), external i = true → s.seen.length = 10 → a ∉ s.seen → exec i s = .next t →
    s.pend.filter (fun m => m.address == a) <+: t.pend.filter (fun m => m.address == a)

/-- 70_reset_and_hazards.md R164, R173: with no address seen and no `HDRAIN`, nothing is ever transmitted, whatever is
received and submitted. That only `HDRAIN` brings a Message to `ENQ` is decision D5 (assumption 16). -/
def Obligations.NoAnswerBeforeTheFirstDrain : Prop :=
  ∀ (is : List Instr) (s : State), s.seen = [] → (∀ i ∈ is, external i = true ∧ i ≠ .hdrain) →
    ∃ t, execAll is s = .next t ∧ t.seen = [] ∧ t.pend = s.pend ∧ t.txLog = s.txLog
end

