-- ==== Sys2Proof/Laws/Config.lean ====
section
/-! SUPPORT. The constants of 00_scope.md R5 as numerals, the one spelling the lemmas are stated in. `dataCap_eq` is no simp
lemma: it stands in `List.replicate Config.dataCap 0`, which simp would write out. -/

namespace Sys2Proof.Config

theorem dataCap_eq : dataCap = 255 := rfl
@[simp] theorem seenCap_eq : seenCap = 10 := rfl
@[simp] theorem pendCap_eq : pendCap = 100 := rfl
@[simp] theorem bridgeCap_eq : bridgeCap = 100 := rfl
@[simp] theorem typePoll_eq : typePoll = 0x4c#8 := rfl
@[simp] theorem typeData_eq : typeData = 0x6c#8 := rfl

end Sys2Proof.Config
end

