-- ==== Sys2Proof/Laws/Frame.lean ====
section
/-! SUPPORT. Words and CRC bytes: packing and unpacking are inverse; the sizes of a frame and of a hex line. -/

namespace Sys2Proof.Machine

@[simp] theorem wordMarker_mkWord : ∀ (k : Bool) (b : Byte), wordMarker (mkWord k b) = k := by
  decide +kernel

@[simp] theorem wordByte_mkWord : ∀ (k : Bool) (b : Byte), wordByte (mkWord k b) = b := by
  decide +kernel

@[simp] theorem mkWord_marker_byte : ∀ w : Word9, mkWord (wordMarker w) (wordByte w) = w := by
  decide +kernel

@[simp] theorem crcHi_crcOfBytes (hi lo : Byte) : crcHi (crcOfBytes hi lo) = hi := by
  ext i h
  have h16 : 8 + i < 16 := by omega
  simp [crcHi, crcOfBytes, h16, h, BitVec.getLsbD_of_ge]

@[simp] theorem crcLo_crcOfBytes (hi lo : Byte) : crcLo (crcOfBytes hi lo) = lo := by
  ext i h
  simp [crcLo, crcOfBytes]

@[simp] theorem crcOfBytes_hi_lo (c : Crc) : crcOfBytes (crcHi c) (crcLo c) = c := by
  ext i h
  simp [crcHi, crcLo, crcOfBytes]
  by_cases h8 : i < 8
  · simp [h8, BitVec.getLsbD_eq_getElem, h]
  · have e : 8 + (i - 8) = i := by omega
    have l : i - 8 < 8 := by omega
    simp [h8, l, e, BitVec.getLsbD_eq_getElem, h]

theorem body_length (m : Message) : (body m).length = 3 + m.length.toNat := by
  simp [body, m.wf]; omega

/-- 40_codec.md R82: `len(ENCODE(m)) == 5 + m.length`. -/
theorem encodeFrame_length (m : Message) : (encodeFrame m).length = 5 + m.length.toNat := by
  simp [encodeFrame, body_length]; omega

theorem encodeFrame_eq (m : Message) :
    encodeFrame m = m.type :: m.address :: m.length :: (m.data ++ [crcHi m.crc, crcLo m.crc]) := by
  simp [encodeFrame, body]

/-- 40_codec.md R86 (e): the CRC can be kept as a running value. -/
theorem crc16_snoc (l : List Byte) (b : Byte) : crc16 (l ++ [b]) = crcByte (crc16 l) b := by
  simp [crc16]

/-- Two Messages with equal fields are equal. -/
theorem message_ext {m n : Message} (ht : m.type = n.type) (ha : m.address = n.address) (hl : m.length = n.length)
    (hd : m.data = n.data) (hc : m.crc = n.crc) : m = n := by
  cases m; cases n; simp_all

end Sys2Proof.Machine
end

