-- ==== Sys2Proof/Laws/Decode.lean ====
section
/-! SUPPORT. The operand readers against the operand writers, one lemma each way. -/

namespace Sys2Proof

open Machine

@[simp] theorem opOfCode_opCode (op : Op) : opOfCode (opCode op) = .ok op := by
  cases op <;> rfl

/-- A code that is accepted is the code of the operation it names. -/
theorem opCode_of_opOfCode {code : Byte} {op : Op} (h : opOfCode code = .ok op) : opCode op = code := by
  have key : ∀ c : Byte, ∀ o ∈ (opOfCode c).toOption, opCode o = c := by decide +kernel
  exact key code op (by simp [h, Except.toOption])

@[simp] theorem takeWord_wordBytes (w : Word9) (rest : List Byte) : takeWord (wordBytes w ++ rest) = .ok (w, rest) := by
  have h : ∀ w : Word9, ((BitVec.ofBool (wordMarker w)).setWidth 8 : Byte).toNat < 2 ∧
      ((BitVec.ofBool (wordMarker w)).setWidth 8 : Byte).getLsbD 0 = wordMarker w := by decide +kernel
  simp only [takeWord, wordBytes, List.cons_append, List.nil_append, (h w).1, (h w).2, if_true, mkWord_marker_byte]

@[simp] theorem takeList_eq (bs : List Byte) : takeList bs = .ok (bs, []) := rfl

@[simp] theorem takeQueue_queueByte (q : QueueId) (rest : List Byte) :
    takeQueue (queueByte q :: rest) = .ok (q, rest) := by
  cases q <;> rfl

@[simp] theorem takeFifo_fifoByte (q : FifoId) (rest : List Byte) :
    takeFifo (fifoByte q :: rest) = .ok (q, rest) := by
  cases q <;> rfl

theorem takeByte_ok {bs rest : List Byte} {b : Byte} (h : takeByte bs = .ok (b, rest)) : bs = b :: rest := by
  cases bs <;> simp_all [takeByte]

theorem takeList_ok {bs rest l : List Byte} (h : takeList bs = .ok (l, rest)) : bs = l ++ rest := by
  simp_all [takeList]

theorem takeWord_ok {bs rest : List Byte} {w : Word9} (h : takeWord bs = .ok (w, rest)) :
    bs = wordBytes w ++ rest := by
  match bs with
  | [] => simp [takeWord] at h
  | [_] => simp [takeWord] at h
  | lo :: hi :: r =>
    simp only [takeWord] at h
    split at h
    · rename_i hlt
      simp only [Except.ok.injEq, Prod.mk.injEq] at h
      obtain ⟨rfl, rfl⟩ := h
      have key : ∀ c : Byte, c.toNat < 2 → (BitVec.ofBool (c.getLsbD 0)).setWidth 8 = c := by decide +kernel
      simp only [wordBytes, wordByte_mkWord, wordMarker_mkWord, key hi hlt]
      rfl
    · simp at h

theorem takeQueue_ok {bs rest : List Byte} {q : QueueId} (h : takeQueue bs = .ok (q, rest)) :
    bs = queueByte q :: rest := by
  match bs with
  | [] => simp [takeQueue] at h
  | b :: r =>
    simp only [takeQueue] at h
    split at h <;> simp only [Except.ok.injEq, Prod.mk.injEq, reduceCtorEq] at h <;> obtain ⟨rfl, rfl⟩ := h <;>
      simp only [queueByte, List.cons.injEq, and_true] <;> (apply BitVec.eq_of_toNat_eq; simpa)

theorem takeFifo_ok {bs rest : List Byte} {q : FifoId} (h : takeFifo bs = .ok (q, rest)) :
    bs = fifoByte q :: rest := by
  match bs with
  | [] => simp [takeFifo] at h
  | b :: r =>
    simp only [takeFifo] at h
    split at h <;> simp only [Except.ok.injEq, Prod.mk.injEq, reduceCtorEq] at h <;> obtain ⟨rfl, rfl⟩ := h <;>
      simp only [fifoByte, List.cons.injEq, and_true] <;> (apply BitVec.eq_of_toNat_eq; simpa)

/-- What a built instruction was built from. -/
theorem build_ok {α : Type} {p : Parsed α} {f : α → Instr} {i : Instr} {rest : List Byte}
    (h : build p f = .ok (i, rest)) : ∃ a, p = .ok (a, rest) ∧ i = f a := by
  unfold build at h
  split at h
  · injection h with h
    injection h with h1 h2
    exact ⟨_, by rw [h2], h1.symm⟩
  · injection h

end Sys2Proof
end

