-- ==== Sys2Proof/Laws/State.lean ====
section
/-! SUPPORT. What each named update of the state leaves in each field, true by rfl, so that no proof unfolds an update. -/

namespace Sys2Proof.Machine

variable (s : State)

@[simp] theorem beginOp_pState : (beginOp s).pState = s.pState := rfl
@[simp] theorem beginOp_pos : (beginOp s).pos = s.pos := rfl
@[simp] theorem beginOp_mType : (beginOp s).mType = s.mType := rfl
@[simp] theorem beginOp_mAddr : (beginOp s).mAddr = s.mAddr := rfl
@[simp] theorem beginOp_mLen : (beginOp s).mLen = s.mLen := rfl
@[simp] theorem beginOp_mData : (beginOp s).mData = s.mData := rfl
@[simp] theorem beginOp_mCrc : (beginOp s).mCrc = s.mCrc := rfl
@[simp] theorem beginOp_seen : (beginOp s).seen = s.seen := rfl
@[simp] theorem beginOp_pend : (beginOp s).pend = s.pend := rfl
@[simp] theorem beginOp_b2h : (beginOp s).b2h = s.b2h := rfl
@[simp] theorem beginOp_h2b : (beginOp s).h2b = s.h2b := rfl
@[simp] theorem beginOp_txMarker : (beginOp s).txMarker = s.txMarker := rfl
@[simp] theorem beginOp_txLog : (beginOp s).txLog = s.txLog := rfl
@[simp] theorem beginOp_errLog : (beginOp s).errLog = s.errLog := rfl
@[simp] theorem beginOp_outcome : (beginOp s).outcome = ⟨[], [], .nothing⟩ := rfl
@[simp] theorem beginOp_inbox : (beginOp s).inbox = s.inbox := rfl

@[simp] theorem returns_pState (r : Ret) : (returns r s).pState = s.pState := rfl
@[simp] theorem returns_pos (r : Ret) : (returns r s).pos = s.pos := rfl
@[simp] theorem returns_mType (r : Ret) : (returns r s).mType = s.mType := rfl
@[simp] theorem returns_mAddr (r : Ret) : (returns r s).mAddr = s.mAddr := rfl
@[simp] theorem returns_mLen (r : Ret) : (returns r s).mLen = s.mLen := rfl
@[simp] theorem returns_mData (r : Ret) : (returns r s).mData = s.mData := rfl
@[simp] theorem returns_mCrc (r : Ret) : (returns r s).mCrc = s.mCrc := rfl
@[simp] theorem returns_seen (r : Ret) : (returns r s).seen = s.seen := rfl
@[simp] theorem returns_pend (r : Ret) : (returns r s).pend = s.pend := rfl
@[simp] theorem returns_b2h (r : Ret) : (returns r s).b2h = s.b2h := rfl
@[simp] theorem returns_h2b (r : Ret) : (returns r s).h2b = s.h2b := rfl
@[simp] theorem returns_txMarker (r : Ret) : (returns r s).txMarker = s.txMarker := rfl
@[simp] theorem returns_txLog (r : Ret) : (returns r s).txLog = s.txLog := rfl
@[simp] theorem returns_errLog (r : Ret) : (returns r s).errLog = s.errLog := rfl
@[simp] theorem returns_outcome (r : Ret) : (returns r s).outcome = { s.outcome with ret := r } := rfl
@[simp] theorem returns_inbox (r : Ret) : (returns r s).inbox = s.inbox := rfl

@[simp] theorem raise_pState (who : Op) (k : Report) : (raise who k s).pState = s.pState := rfl
@[simp] theorem raise_pos (who : Op) (k : Report) : (raise who k s).pos = s.pos := rfl
@[simp] theorem raise_mType (who : Op) (k : Report) : (raise who k s).mType = s.mType := rfl
@[simp] theorem raise_mAddr (who : Op) (k : Report) : (raise who k s).mAddr = s.mAddr := rfl
@[simp] theorem raise_mLen (who : Op) (k : Report) : (raise who k s).mLen = s.mLen := rfl
@[simp] theorem raise_mData (who : Op) (k : Report) : (raise who k s).mData = s.mData := rfl
@[simp] theorem raise_mCrc (who : Op) (k : Report) : (raise who k s).mCrc = s.mCrc := rfl
@[simp] theorem raise_seen (who : Op) (k : Report) : (raise who k s).seen = s.seen := rfl
@[simp] theorem raise_pend (who : Op) (k : Report) : (raise who k s).pend = s.pend := rfl
@[simp] theorem raise_b2h (who : Op) (k : Report) : (raise who k s).b2h = s.b2h := rfl
@[simp] theorem raise_h2b (who : Op) (k : Report) : (raise who k s).h2b = s.h2b := rfl
@[simp] theorem raise_txMarker (who : Op) (k : Report) : (raise who k s).txMarker = s.txMarker := rfl
@[simp] theorem raise_txLog (who : Op) (k : Report) : (raise who k s).txLog = s.txLog := rfl
@[simp] theorem raise_errLog (who : Op) (k : Report) : (raise who k s).errLog = s.errLog ++ [⟨who, k⟩] := rfl
@[simp] theorem raise_outcome (who : Op) (k : Report) : (raise who k s).outcome = { s.outcome with errs := s.outcome.errs ++ [⟨who, k⟩] } := rfl
@[simp] theorem raise_inbox (who : Op) (k : Report) : (raise who k s).inbox = s.inbox := rfl

@[simp] theorem tx_pState (e : TxEvent) : (tx e s).pState = s.pState := rfl
@[simp] theorem tx_pos (e : TxEvent) : (tx e s).pos = s.pos := rfl
@[simp] theorem tx_mType (e : TxEvent) : (tx e s).mType = s.mType := rfl
@[simp] theorem tx_mAddr (e : TxEvent) : (tx e s).mAddr = s.mAddr := rfl
@[simp] theorem tx_mLen (e : TxEvent) : (tx e s).mLen = s.mLen := rfl
@[simp] theorem tx_mData (e : TxEvent) : (tx e s).mData = s.mData := rfl
@[simp] theorem tx_mCrc (e : TxEvent) : (tx e s).mCrc = s.mCrc := rfl
@[simp] theorem tx_seen (e : TxEvent) : (tx e s).seen = s.seen := rfl
@[simp] theorem tx_pend (e : TxEvent) : (tx e s).pend = s.pend := rfl
@[simp] theorem tx_b2h (e : TxEvent) : (tx e s).b2h = s.b2h := rfl
@[simp] theorem tx_h2b (e : TxEvent) : (tx e s).h2b = s.h2b := rfl
@[simp] theorem tx_txMarker (e : TxEvent) : (tx e s).txMarker = s.txMarker := rfl
@[simp] theorem tx_txLog (e : TxEvent) : (tx e s).txLog = s.txLog ++ [e] := rfl
@[simp] theorem tx_errLog (e : TxEvent) : (tx e s).errLog = s.errLog := rfl
@[simp] theorem tx_outcome (e : TxEvent) : (tx e s).outcome = { s.outcome with tx := s.outcome.tx ++ [e] } := rfl
@[simp] theorem tx_inbox (e : TxEvent) : (tx e s).inbox = s.inbox := rfl

@[simp] theorem setMarker_pState (v : Bool) : (setMarker v s).pState = s.pState := rfl
@[simp] theorem setMarker_pos (v : Bool) : (setMarker v s).pos = s.pos := rfl
@[simp] theorem setMarker_mType (v : Bool) : (setMarker v s).mType = s.mType := rfl
@[simp] theorem setMarker_mAddr (v : Bool) : (setMarker v s).mAddr = s.mAddr := rfl
@[simp] theorem setMarker_mLen (v : Bool) : (setMarker v s).mLen = s.mLen := rfl
@[simp] theorem setMarker_mData (v : Bool) : (setMarker v s).mData = s.mData := rfl
@[simp] theorem setMarker_mCrc (v : Bool) : (setMarker v s).mCrc = s.mCrc := rfl
@[simp] theorem setMarker_seen (v : Bool) : (setMarker v s).seen = s.seen := rfl
@[simp] theorem setMarker_pend (v : Bool) : (setMarker v s).pend = s.pend := rfl
@[simp] theorem setMarker_b2h (v : Bool) : (setMarker v s).b2h = s.b2h := rfl
@[simp] theorem setMarker_h2b (v : Bool) : (setMarker v s).h2b = s.h2b := rfl
@[simp] theorem setMarker_txMarker (v : Bool) : (setMarker v s).txMarker = v := rfl
@[simp] theorem setMarker_txLog (v : Bool) : (setMarker v s).txLog = s.txLog := rfl
@[simp] theorem setMarker_errLog (v : Bool) : (setMarker v s).errLog = s.errLog := rfl
@[simp] theorem setMarker_outcome (v : Bool) : (setMarker v s).outcome = s.outcome := rfl
@[simp] theorem setMarker_inbox (v : Bool) : (setMarker v s).inbox = s.inbox := rfl

@[simp] theorem takeRequest_pState (rest : List Request) : (takeRequest rest s).pState = s.pState := rfl
@[simp] theorem takeRequest_pos (rest : List Request) : (takeRequest rest s).pos = s.pos := rfl
@[simp] theorem takeRequest_mType (rest : List Request) : (takeRequest rest s).mType = s.mType := rfl
@[simp] theorem takeRequest_mAddr (rest : List Request) : (takeRequest rest s).mAddr = s.mAddr := rfl
@[simp] theorem takeRequest_mLen (rest : List Request) : (takeRequest rest s).mLen = s.mLen := rfl
@[simp] theorem takeRequest_mData (rest : List Request) : (takeRequest rest s).mData = s.mData := rfl
@[simp] theorem takeRequest_mCrc (rest : List Request) : (takeRequest rest s).mCrc = s.mCrc := rfl
@[simp] theorem takeRequest_seen (rest : List Request) : (takeRequest rest s).seen = s.seen := rfl
@[simp] theorem takeRequest_pend (rest : List Request) : (takeRequest rest s).pend = s.pend := rfl
@[simp] theorem takeRequest_b2h (rest : List Request) : (takeRequest rest s).b2h = s.b2h := rfl
@[simp] theorem takeRequest_h2b (rest : List Request) : (takeRequest rest s).h2b = s.h2b := rfl
@[simp] theorem takeRequest_txMarker (rest : List Request) : (takeRequest rest s).txMarker = s.txMarker := rfl
@[simp] theorem takeRequest_txLog (rest : List Request) : (takeRequest rest s).txLog = s.txLog := rfl
@[simp] theorem takeRequest_errLog (rest : List Request) : (takeRequest rest s).errLog = s.errLog := rfl
@[simp] theorem takeRequest_outcome (rest : List Request) : (takeRequest rest s).outcome = s.outcome := rfl
@[simp] theorem takeRequest_inbox (rest : List Request) : (takeRequest rest s).inbox = rest := rfl

@[simp] theorem present_pState (r : Request) : (present r s).pState = s.pState := rfl
@[simp] theorem present_pos (r : Request) : (present r s).pos = s.pos := rfl
@[simp] theorem present_mType (r : Request) : (present r s).mType = s.mType := rfl
@[simp] theorem present_mAddr (r : Request) : (present r s).mAddr = s.mAddr := rfl
@[simp] theorem present_mLen (r : Request) : (present r s).mLen = s.mLen := rfl
@[simp] theorem present_mData (r : Request) : (present r s).mData = s.mData := rfl
@[simp] theorem present_mCrc (r : Request) : (present r s).mCrc = s.mCrc := rfl
@[simp] theorem present_seen (r : Request) : (present r s).seen = s.seen := rfl
@[simp] theorem present_pend (r : Request) : (present r s).pend = s.pend := rfl
@[simp] theorem present_b2h (r : Request) : (present r s).b2h = s.b2h := rfl
@[simp] theorem present_h2b (r : Request) : (present r s).h2b = s.h2b := rfl
@[simp] theorem present_txMarker (r : Request) : (present r s).txMarker = s.txMarker := rfl
@[simp] theorem present_txLog (r : Request) : (present r s).txLog = s.txLog := rfl
@[simp] theorem present_errLog (r : Request) : (present r s).errLog = s.errLog := rfl
@[simp] theorem present_outcome (r : Request) : (present r s).outcome = s.outcome := rfl
@[simp] theorem present_inbox (r : Request) : (present r s).inbox = r :: s.inbox := rfl

end Sys2Proof.Machine
end

