-- ==== Sys2Proof/Laws/Ops.lean ====
section
/-! SUPPORT. For each shared operation, everything it can do, said once: proofs cite these and do not unfold the operation. -/

namespace Sys2Proof.Machine

@[simp] theorem run_eq (f : State → State) (s : State) : run f s = .next (f (beginOp s)) := rfl

@[simp] theorem runRet_eq (f : State → Ret × State) (s : State) :
    runRet f s = .next (returns (f (beginOp s)).1 (f (beginOp s)).2) := rfl

/-- `SEND` of each byte appends one word each, in order, under the marker mode in force. -/
theorem sendAll_eq (l : List Byte) (s : State) :
    sendAll l s = { s with
      txLog := s.txLog ++ l.map (fun b => .word (mkWord s.txMarker b)),
      outcome := { s.outcome with tx := s.outcome.tx ++ l.map (fun b => .word (mkWord s.txMarker b)) } } := by
  induction l generalizing s with
  | nil => simp [sendAll]
  | cons b l ih => simp [sendAll, ih, send, tx]

/-- `TXFRAME` of a non-empty list appends the events of the frame and leaves the marker mode clear. -/
theorem txFrame_eq (f : List Byte) (hf : f ≠ []) (s : State) :
    txFrame f s = { s with
      txMarker := false,
      txLog := s.txLog ++ frameEvents f,
      outcome := { s.outcome with tx := s.outcome.tx ++ frameEvents f } } := by
  cases f with
  | nil => exact absurd rfl hf
  | cons f0 rest => simp [txFrame, sendAll_eq, send, tx, setMarker, frameEvents]

theorem encodeFrame_ne_nil (m : Message) : encodeFrame m ≠ [] := by
  simp [encodeFrame_eq]

@[simp] theorem readQueue_writeQueue (q : QueueId) (l : List Message) (s : State) :
    readQueue q (writeQueue q l s) = l := by
  cases q <;> rfl

theorem readQueue_writeQueue_other {q r : QueueId} (h : r ≠ q) (l : List Message) (s : State) :
    readQueue r (writeQueue q l s) = readQueue r s := by
  cases q <;> cases r <;> first | rfl | exact absurd rfl h

@[simp] theorem writeQueue_readQueue (q : QueueId) (s : State) : writeQueue q (readQueue q s) s = s := by
  cases q <;> rfl

@[simp] theorem writeQueue_pState (q : QueueId) (l : List Message) (s : State) : (writeQueue q l s).pState = s.pState := by
  cases q <;> rfl

@[simp] theorem writeQueue_pos (q : QueueId) (l : List Message) (s : State) : (writeQueue q l s).pos = s.pos := by
  cases q <;> rfl

@[simp] theorem writeQueue_mType (q : QueueId) (l : List Message) (s : State) : (writeQueue q l s).mType = s.mType := by
  cases q <;> rfl

@[simp] theorem writeQueue_mAddr (q : QueueId) (l : List Message) (s : State) : (writeQueue q l s).mAddr = s.mAddr := by
  cases q <;> rfl

@[simp] theorem writeQueue_mLen (q : QueueId) (l : List Message) (s : State) : (writeQueue q l s).mLen = s.mLen := by
  cases q <;> rfl

@[simp] theorem writeQueue_mData (q : QueueId) (l : List Message) (s : State) : (writeQueue q l s).mData = s.mData := by
  cases q <;> rfl

@[simp] theorem writeQueue_mCrc (q : QueueId) (l : List Message) (s : State) : (writeQueue q l s).mCrc = s.mCrc := by
  cases q <;> rfl

@[simp] theorem writeQueue_seen (q : QueueId) (l : List Message) (s : State) : (writeQueue q l s).seen = s.seen := by
  cases q <;> rfl

@[simp] theorem writeQueue_txMarker (q : QueueId) (l : List Message) (s : State) : (writeQueue q l s).txMarker = s.txMarker := by
  cases q <;> rfl

@[simp] theorem writeQueue_txLog (q : QueueId) (l : List Message) (s : State) : (writeQueue q l s).txLog = s.txLog := by
  cases q <;> rfl

@[simp] theorem writeQueue_errLog (q : QueueId) (l : List Message) (s : State) : (writeQueue q l s).errLog = s.errLog := by
  cases q <;> rfl

@[simp] theorem writeQueue_outcome (q : QueueId) (l : List Message) (s : State) : (writeQueue q l s).outcome = s.outcome := by
  cases q <;> rfl

@[simp] theorem writeQueue_inbox (q : QueueId) (l : List Message) (s : State) : (writeQueue q l s).inbox = s.inbox := by
  cases q <;> rfl

theorem queueCap_eq (q : QueueId) : queueCap q = 100 := by
  cases q <;> rfl

theorem tryInsert_full {q : QueueId} {s : State} (h : (readQueue q s).length = queueCap q) (m : Message) :
    tryInsert q m s = (.full, s) := by
  simp [tryInsert, insertList, h]

theorem tryInsert_ok {q : QueueId} {s : State} (h : (readQueue q s).length ≠ queueCap q) (m : Message) :
    tryInsert q m s = (.ok, writeQueue q (readQueue q s ++ [m]) s) := by
  simp [tryInsert, insertList, h]

theorem insertOrRaise_full {q : QueueId} {s : State} (h : (readQueue q s).length = queueCap q) (who : Op)
    (m : Message) : insertOrRaise who q m s = (.full, raise who (.queueFull q m) s) := by
  simp [insertOrRaise, tryInsert_full h]

theorem insertOrRaise_ok {q : QueueId} {s : State} (h : (readQueue q s).length ≠ queueCap q) (who : Op)
    (m : Message) : insertOrRaise who q m s = (.ok, writeQueue q (readQueue q s ++ [m]) s) := by
  simp [insertOrRaise, tryInsert_ok h]

/-- Everything `TRYINSERT` with its report can do: refuse and report, or append. -/
theorem insertOrRaise_cases (who : Op) (q : QueueId) (m : Message) (s : State) :
    ((readQueue q s).length = 100 ∧ insertOrRaise who q m s = (.full, raise who (.queueFull q m) s)) ∨
    ((readQueue q s).length ≠ 100 ∧ insertOrRaise who q m s = (.ok, writeQueue q (readQueue q s ++ [m]) s)) := by
  by_cases h : (readQueue q s).length = 100
  · exact .inl ⟨h, insertOrRaise_full (by rw [queueCap_eq]; exact h) _ _⟩
  · exact .inr ⟨h, insertOrRaise_ok (by rw [queueCap_eq]; exact h) _ _⟩

theorem popHead_nil {q : FifoId} {s : State} (h : readQueue (fifoQueue q) s = []) : popHead q s = (none, s) := by
  have e := writeQueue_readQueue (fifoQueue q) s
  rw [h] at e
  simp [popHead, h, popList, e]

theorem popHead_cons {q : FifoId} {s : State} {m : Message} {rest : List Message}
    (h : readQueue (fifoQueue q) s = m :: rest) : popHead q s = (some m, writeQueue (fifoQueue q) rest s) := by
  simp [popHead, h, popList]

/-- The entry `PENDTAKE` takes and the list it leaves are the library's first match and its removal. -/
theorem takeFirst_eq (a : Byte) (l : List Message) :
    takeFirst a l = (l.find? (fun m => m.address == a), l.eraseP (fun m => m.address == a)) := by
  induction l with
  | nil => rfl
  | cons m l ih =>
    by_cases h : m.address = a
    · simp [takeFirst, h]
    · simp [takeFirst, h, ih, beq_eq_false_iff_ne.mpr h]

/-- `SEENINS` writes `seen` alone. -/
theorem seenInsert_eq (a : Byte) (s : State) :
    seenInsert a s = { s with
      seen := if a ∈ s.seen ∨ s.seen.length = 10 then s.seen else s.seen ++ [a] } := by
  unfold seenInsert
  rw [Config.seenCap_eq]
  split
  · simp [*]
  · split <;> simp [*]

/-- `POLL` of a seen address: the entry leaves `pend`, and one frame goes out. -/
theorem pollAddress_seen {a : Byte} {s : State} (h : a ∈ s.seen) :
    pollAddress a s = { s with
      pend := s.pend.eraseP (fun m => m.address == a),
      txMarker := false,
      txLog := s.txLog ++ frameEvents (encodeFrame (pollReply a s.pend)),
      outcome := { s.outcome with
        tx := s.outcome.tx ++
          frameEvents (encodeFrame (pollReply a s.pend)) } } := by
  have e : pollAnswer a s = pollReply a s.pend := by
    simp only [pollAnswer, pendTake, takeFirst_eq]
    unfold pollReply
    cases s.pend.find? (fun m => m.address == a) <;> rfl
  simp [pollAddress, h, e, txFrame_eq _ (encodeFrame_ne_nil _), pendTake, takeFirst_eq]

theorem pollAddress_unseen {a : Byte} {s : State} (h : a ∉ s.seen) : pollAddress a s = s := by
  simp [pollAddress, h]

/-- `ENQ` when `pend` has room. -/
theorem enqWith_room {s : State} (h : s.pend.length ≠ 100) (k : Bool) (m : Message) :
    enqWith k m s = seenInsert m.address { s with pend := s.pend ++ [m] } := by
  simp only [enqWith]
  rw [insertOrRaise_ok (q := .pend) h]
  rfl

/-- `ENQ` when `pend` is full. -/
theorem enqWith_full {s : State} (h : s.pend.length = 100) (k : Bool) (m : Message) :
    enqWith k m s =
      if k then seenInsert m.address (raise .enq (.queueFull .pend m) s) else raise .enq (.queueFull .pend m) s := by
  simp only [enqWith]
  rw [insertOrRaise_full (q := .pend) h]

theorem busFrameThen_bad {m : Message} (h : verify m = false) (f : State → State) (s : State) :
    busFrameThen m f s = raise .busframe (.crcMismatch m) s := by
  simp [busFrameThen, h]

theorem busFrameThen_room {m : Message} (h : verify m = true) {s : State} (hr : s.b2h.length ≠ 100)
    (f : State → State) : busFrameThen m f s = f { s with b2h := s.b2h ++ [m] } := by
  simp only [busFrameThen, h, if_true]
  rw [insertOrRaise_ok (q := .b2h) hr]
  rfl

theorem busFrameThen_full {m : Message} (h : verify m = true) {s : State} (hr : s.b2h.length = 100)
    (f : State → State) : busFrameThen m f s = f (raise .busframe (.queueFull .b2h m) s) := by
  simp only [busFrameThen, h, if_true]
  rw [insertOrRaise_full (q := .b2h) hr]

theorem dataPrefix_length (l : List Byte) (n : Nat) : (dataPrefix l n).length = n := by
  simp [dataPrefix]

/-- Inside the buffer, the prefix is the buffer's own. -/
theorem dataPrefix_eq_take {l : List Byte} {n : Nat} (h : n ≤ l.length) : dataPrefix l n = l.take n := by
  apply List.ext_getElem
  · simp [dataPrefix, h]
  · intro i h1 h2
    simp [dataPrefix] at h1
    simp [dataPrefix, List.getElem?_eq_getElem (show i < l.length by omega)]

end Sys2Proof.Machine
end

