-- ==== Sys2Proof/Laws/Parser.lean ====
section
/-! SUPPORT. What `START` leaves in each field, and what `FEED` can do, said once. -/

namespace Sys2Proof.Machine

@[simp] theorem parserStart_pState (t : Byte) (s : State) : (parserStart t s).pState = .collecting := rfl
@[simp] theorem parserStart_pos (t : Byte) (s : State) : (parserStart t s).pos = 1 := rfl
@[simp] theorem parserStart_mType (t : Byte) (s : State) : (parserStart t s).mType = t := rfl
@[simp] theorem parserStart_mAddr (t : Byte) (s : State) : (parserStart t s).mAddr = 0 := rfl
@[simp] theorem parserStart_mLen (t : Byte) (s : State) : (parserStart t s).mLen = 0 := rfl
@[simp] theorem parserStart_mData (t : Byte) (s : State) : (parserStart t s).mData = List.replicate Config.dataCap 0 := rfl
@[simp] theorem parserStart_mCrc (t : Byte) (s : State) : (parserStart t s).mCrc = 0 := rfl
@[simp] theorem parserStart_seen (t : Byte) (s : State) : (parserStart t s).seen = s.seen := rfl
@[simp] theorem parserStart_pend (t : Byte) (s : State) : (parserStart t s).pend = s.pend := rfl
@[simp] theorem parserStart_b2h (t : Byte) (s : State) : (parserStart t s).b2h = s.b2h := rfl
@[simp] theorem parserStart_h2b (t : Byte) (s : State) : (parserStart t s).h2b = s.h2b := rfl
@[simp] theorem parserStart_txMarker (t : Byte) (s : State) : (parserStart t s).txMarker = s.txMarker := rfl
@[simp] theorem parserStart_txLog (t : Byte) (s : State) : (parserStart t s).txLog = s.txLog := rfl
@[simp] theorem parserStart_errLog (t : Byte) (s : State) : (parserStart t s).errLog = s.errLog := rfl
@[simp] theorem parserStart_outcome (t : Byte) (s : State) : (parserStart t s).outcome = s.outcome := rfl
@[simp] theorem parserStart_inbox (t : Byte) (s : State) : (parserStart t s).inbox = s.inbox := rfl

/-- At `DATA_CAP = 255` the guard of `FEED` never holds (41_parser.md R93). -/
theorem not_dataCap_lt (b : Byte) : ¬ Config.dataCap < b.toNat := by
  have := b.isLt
  simp only [Config.dataCap_eq]
  omega

/-- The end of a `FEED` that stored its byte: pending, or complete and idle. -/
theorem feedAdvance_cases (s : State) :
    (feedAdvance s = (.pending, { s with pos := s.pos + 1 }) ∧
      ¬ (5 ≤ (s.pos + 1).toNat ∧ (s.pos + 1).toNat = 5 + s.mLen.toNat)) ∨
    feedAdvance s = (.complete (parsedMessage s), { s with pos := s.pos + 1, pState := .idle }) := by
  unfold feedAdvance
  split
  · exact .inr rfl
  · exact .inl ⟨rfl, by assumption⟩

/-- The parser with its byte stored is `s` with registers other than `pos` replaced; the length byte only at `pos == 2`. -/
theorem parserFeed_collecting {s : State} (h : s.pState = .collecting) (b : Byte) :
    ∃ ad ln da cr, da.length = s.mData.length ∧ (ln = s.mLen ∨ s.pos.toNat = 2) ∧
      parserFeed b s = feedAdvance { s with mAddr := ad, mLen := ln, mData := da, mCrc := cr } := by
  unfold parserFeed feedCap
  rw [h]
  dsimp only
  split
  · exact ⟨b, s.mLen, s.mData, s.mCrc, rfl, .inl rfl, by rw [← h]⟩
  · split
    · rw [if_neg (not_dataCap_lt b)]
      exact ⟨s.mAddr, b, s.mData, s.mCrc, rfl, .inr (by assumption), by rw [← h]⟩
    · split
      · exact ⟨s.mAddr, s.mLen, s.mData.set (s.pos.toNat - 3) b, s.mCrc, by simp, .inl rfl, by rw [← h]⟩
      · split
        · exact ⟨s.mAddr, s.mLen, s.mData, setCrcHi s.mCrc b, rfl, .inl rfl, by rw [← h]⟩
        · exact ⟨s.mAddr, s.mLen, s.mData, setCrcLo s.mCrc b, rfl, .inl rfl, by rw [← h]⟩

theorem parserFeed_idle {s : State} (h : s.pState = .idle) (b : Byte) :
    parserFeed b s = (.refused, raise .feed (.frameOverrun b) s) := by
  unfold parserFeed feedCap
  rw [h]

/-- Everything `FEED` can do (41_parser.md R91): refuse and report, or write registers and either wait or complete. -/
theorem parserFeed_cases (b : Byte) (s : State) :
    (s.pState = .idle ∧ parserFeed b s = (.refused, raise .feed (.frameOverrun b) s)) ∨
    (s.pState = .collecting ∧ ∃ ad ln da cr, da.length = s.mData.length ∧ (ln = s.mLen ∨ s.pos.toNat = 2) ∧
      ((parserFeed b s = (.pending, { s with mAddr := ad, mLen := ln, mData := da, mCrc := cr, pos := s.pos + 1 }) ∧
          ¬ (5 ≤ (s.pos + 1).toNat ∧ (s.pos + 1).toNat = 5 + ln.toNat)) ∨
        parserFeed b s = (.complete (parsedMessage { s with mAddr := ad, mLen := ln, mData := da, mCrc := cr }),
          { s with mAddr := ad, mLen := ln, mData := da, mCrc := cr, pos := s.pos + 1, pState := .idle }))) := by
  by_cases h : s.pState = .idle
  · exact .inl ⟨h, parserFeed_idle h b⟩
  · have hc : s.pState = .collecting := by cases hs : s.pState <;> simp_all
    obtain ⟨ad, ln, da, cr, hl, hn, e⟩ := parserFeed_collecting hc b
    rw [e]
    exact .inr ⟨hc, ad, ln, da, cr, hl, hn,
      feedAdvance_cases { s with mAddr := ad, mLen := ln, mData := da, mCrc := cr }⟩

end Sys2Proof.Machine
end

