-- ==== Sys2Proof/Laws/PerInstr.lean ====
section
/-! SUPPORT. The family of laws made per instruction: a well-formed instruction encodes to a word that matches its own row of
spec/opcode_table.json, in the row's format. -/

namespace Sys2Proof.Laws

open Machine

/-- The table's word of a request: the 9-bit word of `RXW` in two bytes, else the first byte. -/
def tableWord (r : Request) : Nat :=
  match r.fmt with
  | .rxw => (r.bytes.getD 0 0).toNat + 256 * (r.bytes.getD 1 0).toNat
  | _ => (r.bytes.getD 0 0).toNat

/-- A word matches a row of mask and match, in the row's format. -/
def Matches (r : Request) (fmt : Format) (mask value : Nat) : Prop :=
  r.fmt = fmt ∧ tableWord r &&& mask = value

/-- The row of each instruction in spec/opcode_table.json; `T_OTHER` is the default row, taken when neither other matches. -/
def RowMatches (r : Request) : Instr → Prop
  | .crc16 _ => Matches r .opsel 0x1f 0x00
  | .encode _ => Matches r .opsel 0x1f 0x01
  | .decode _ => Matches r .opsel 0x1f 0x02
  | .computecrc _ => Matches r .opsel 0x1f 0x03
  | .verify _ => Matches r .opsel 0x1f 0x04
  | .start _ => Matches r .rxw 0x100 0x100
  | .feed _ => Matches r .rxw 0x100 0x000
  | .rxword _ => Matches r .opsel 0x1f 0x07
  | .txframe _ _ _ => Matches r .opsel 0x1f 0x08
  | .busframe _ => Matches r .opsel 0x1f 0x09
  | .poll _ => Matches r .opsel 0x1f 0x0a
  | .enq _ => Matches r .opsel 0x1f 0x0b
  | .seenins _ => Matches r .opsel 0x1f 0x0c
  | .defresp _ => Matches r .opsel 0x1f 0x0d
  | .pendtake _ => Matches r .opsel 0x1f 0x0e
  | .tryinsert _ _ => Matches r .opsel 0x1f 0x0f
  | .pophead _ => Matches r .opsel 0x1f 0x10
  | .hsubmit _ => Matches r .opsel 0x1f 0x11
  | .hdrain => Matches r .opsel 0x1f 0x12
  | .hpop => Matches r .opsel 0x1f 0x13
  | .hexline _ => Matches r .opsel 0x1f 0x14
  | .tPoll src _ => Matches r (.typeByte src) 0xff 0x4c
  | .tData src _ => Matches r (.typeByte src) 0xff 0x6c
  | .tOther src _ => Matches r (.typeByte src) 0 0 ∧ tableWord r &&& 0xff ≠ 0x4c ∧ tableWord r &&& 0xff ≠ 0x6c

/-- The law: a well-formed instruction's encoding matches its row. -/
def EncodesItsRow.Statement (i : Instr) : Prop :=
  i.wellFormed = true → RowMatches (Sys2Proof.encode i) i

/-- The first byte of a frame is the type byte. -/
theorem tableWord_frame (src : Origin) (m : Message) :
    tableWord ⟨.typeByte src, encodeFrame m⟩ &&& 0xff = m.type.toNat := by
  have h : ∀ b : Byte, b.toNat &&& 0xff = b.toNat := by decide +kernel
  simp only [tableWord, encodeFrame_eq, List.getD_cons_zero, h]

theorem EncodesItsRow.crc16 (bytes : List Byte) : EncodesItsRow.Statement (.crc16 bytes) := by
  exact fun _ => ⟨rfl, by simp [tableWord, Sys2Proof.encode, opCode]⟩

theorem EncodesItsRow.encode (m : Message) : EncodesItsRow.Statement (.encode m) := by
  exact fun _ => ⟨rfl, by simp [tableWord, Sys2Proof.encode, opCode]⟩

theorem EncodesItsRow.decode (bytes : List Byte) : EncodesItsRow.Statement (.decode bytes) := by
  exact fun _ => ⟨rfl, by simp [tableWord, Sys2Proof.encode, opCode]⟩

theorem EncodesItsRow.computecrc (m : Message) : EncodesItsRow.Statement (.computecrc m) := by
  exact fun _ => ⟨rfl, by simp [tableWord, Sys2Proof.encode, opCode]⟩

theorem EncodesItsRow.verify (m : Message) : EncodesItsRow.Statement (.verify m) := by
  exact fun _ => ⟨rfl, by simp [tableWord, Sys2Proof.encode, opCode]⟩

theorem EncodesItsRow.start (t : Byte) : EncodesItsRow.Statement (.start t) := by
  intro _
  have h : ∀ x : Byte, tableWord ⟨.rxw, wordBytes (mkWord true x)⟩ &&& 0x100 = 0x100 := by decide +kernel
  exact ⟨rfl, h t⟩

theorem EncodesItsRow.feed (b : Byte) : EncodesItsRow.Statement (.feed b) := by
  intro _
  have h : ∀ x : Byte, tableWord ⟨.rxw, wordBytes (mkWord false x)⟩ &&& 0x100 = 0x000 := by decide +kernel
  exact ⟨rfl, h b⟩

theorem EncodesItsRow.rxword (w : Word9) : EncodesItsRow.Statement (.rxword w) := by
  exact fun _ => ⟨rfl, by simp [tableWord, Sys2Proof.encode, opCode]⟩

theorem EncodesItsRow.txframe (f0 f1 : Byte) (rest : List Byte) : EncodesItsRow.Statement (.txframe f0 f1 rest) := by
  exact fun _ => ⟨rfl, by simp [tableWord, Sys2Proof.encode, opCode]⟩

theorem EncodesItsRow.busframe (m : Message) : EncodesItsRow.Statement (.busframe m) := by
  exact fun _ => ⟨rfl, by simp [tableWord, Sys2Proof.encode, opCode]⟩

theorem EncodesItsRow.poll (a : Byte) : EncodesItsRow.Statement (.poll a) := by
  exact fun _ => ⟨rfl, by simp [tableWord, Sys2Proof.encode, opCode]⟩

theorem EncodesItsRow.enq (m : Message) : EncodesItsRow.Statement (.enq m) := by
  exact fun _ => ⟨rfl, by simp [tableWord, Sys2Proof.encode, opCode]⟩

theorem EncodesItsRow.seenins (a : Byte) : EncodesItsRow.Statement (.seenins a) := by
  exact fun _ => ⟨rfl, by simp [tableWord, Sys2Proof.encode, opCode]⟩

theorem EncodesItsRow.defresp (a : Byte) : EncodesItsRow.Statement (.defresp a) := by
  exact fun _ => ⟨rfl, by simp [tableWord, Sys2Proof.encode, opCode]⟩

theorem EncodesItsRow.pendtake (a : Byte) : EncodesItsRow.Statement (.pendtake a) := by
  exact fun _ => ⟨rfl, by simp [tableWord, Sys2Proof.encode, opCode]⟩

theorem EncodesItsRow.tryinsert (q : QueueId) (m : Message) : EncodesItsRow.Statement (.tryinsert q m) := by
  exact fun _ => ⟨rfl, by simp [tableWord, Sys2Proof.encode, opCode]⟩

theorem EncodesItsRow.pophead (q : FifoId) : EncodesItsRow.Statement (.pophead q) := by
  exact fun _ => ⟨rfl, by simp [tableWord, Sys2Proof.encode, opCode]⟩

theorem EncodesItsRow.hsubmit (m : Message) : EncodesItsRow.Statement (.hsubmit m) := by
  exact fun _ => ⟨rfl, by simp [tableWord, Sys2Proof.encode, opCode]⟩

theorem EncodesItsRow.hdrain : EncodesItsRow.Statement (.hdrain) := by
  exact fun _ => ⟨rfl, by simp [tableWord, Sys2Proof.encode, opCode]⟩

theorem EncodesItsRow.hpop : EncodesItsRow.Statement (.hpop) := by
  exact fun _ => ⟨rfl, by simp [tableWord, Sys2Proof.encode, opCode]⟩

theorem EncodesItsRow.hexline (bytes : List Byte) : EncodesItsRow.Statement (.hexline bytes) := by
  exact fun _ => ⟨rfl, by simp [tableWord, Sys2Proof.encode, opCode]⟩

theorem EncodesItsRow.tPoll (src : Origin) (m : Message) : EncodesItsRow.Statement (.tPoll src m) := by
  intro h
  have e : m.type = Config.typePoll := by simpa [Instr.wellFormed] using h
  exact ⟨rfl, (tableWord_frame src m).trans (by rw [e]; rfl)⟩

theorem EncodesItsRow.tData (src : Origin) (m : Message) : EncodesItsRow.Statement (.tData src m) := by
  intro h
  have e : m.type = Config.typeData := by simpa [Instr.wellFormed] using h
  exact ⟨rfl, (tableWord_frame src m).trans (by rw [e]; rfl)⟩

theorem EncodesItsRow.tOther (src : Origin) (m : Message) : EncodesItsRow.Statement (.tOther src m) := by
  intro h
  have e : ¬ m.type = 0x4c#8 ∧ ¬ m.type = 0x6c#8 := by simpa [Instr.wellFormed] using h
  refine ⟨⟨rfl, by simp⟩, ?_, ?_⟩
  · intro k
    exact e.1 (BitVec.eq_of_toNat_eq ((tableWord_frame src m).symm.trans k))
  · intro k
    exact e.2 (BitVec.eq_of_toNat_eq ((tableWord_frame src m).symm.trans k))

end Sys2Proof.Laws
end

