-- ==== Sys2Proof/Tests/Slice0.lean ====
section
/-! SUPPORT. Tests, each on one operation, with expected values from spec/95_test_vectors.md (the part is named); and for every
statement with hypotheses a concrete state and operands that meet them together. -/

namespace Sys2Proof.Tests

set_option Elab.async false

open Machine

/-- Message `A` of 95_test_vectors.md part 1. -/
def msgA : Message := ⟨0x6c, 0x10, 4, [0xde, 0xad, 0xbe, 0xef], 0xb6a4, rfl⟩
/-- Message `B`. -/
def msgB : Message := ⟨0x6c, 0x10, 1, [0x01], 0x7693, rfl⟩
/-- Message `C`. -/
def msgC : Message := ⟨0x6c, 0x10, 2, [0x02, 0x03], 0xb131, rfl⟩
/-- Message `D`. -/
def msgD : Message := ⟨0x6c, 0x20, 1, [0xaa], 0xb7b7, rfl⟩
/-- Message `X`. -/
def msgX : Message := ⟨0x55, 0x33, 3, [0x01, 0x02, 0x03], 0x2b44, rfl⟩
/-- Message `P10`. -/
def msgP10 : Message := ⟨0x4c, 0x10, 0, [], 0x6bbf, rfl⟩
/-- `A` with its last byte changed to `a5` (parts 2.2, 2.5). -/
def msgBad : Message := { msgA with crc := 0xb6a5 }

/-- The answer is a next state with the property. -/
def answers (o : Host.Outcome State Fault Refusal) (p : State → Bool) : Bool :=
  match o with
  | .next t => p t
  | _ => false

/-- A state with `seen` and `pend` given. -/
def relayState (seen : List Byte) (pend : List Message) : State :=
  { State.reset with seen := seen, pend := pend }

/-- A parser in the middle of a frame. -/
def collecting (pos : BitVec 9) (len : Byte) : State :=
  { State.reset with pState := .collecting, pos := pos, mType := 0x6c, mLen := len }

/-- Ten seen addresses and three full queues. -/
def fullState : State :=
  { State.reset with
    seen := [0x10, 1, 2, 3, 4, 5, 6, 7, 8, 9],
    pend := List.replicate 100 msgA, b2h := List.replicate 100 msgP10, h2b := List.replicate 100 msgA }

/-! ## WellFormed: each check refuses an ill-formed term -/

theorem test_ill_formed_tPoll : (Instr.tPoll .bus msgA).wellFormed = false := by decide
theorem test_ill_formed_tData : (Instr.tData .bus msgP10).wellFormed = false := by decide
theorem test_ill_formed_tOther : (Instr.tOther .bus msgA).wellFormed = false ∧
    (Instr.tOther .host msgP10).wellFormed = false := by decide
/-- 10_state.md R11: a record whose data is not as long as its length field says is no Message, so no frame decodes to one. -/
theorem test_short_frame_is_no_message : decodeFrame [0x6c, 0x10, 0x04, 0xde] = none := by decide

/-! ## Decode: one word per constructor, from the codes of 30_encoding.md R63, R69, R76 -/

theorem test_decode_crc16 : decode ⟨.opsel, [0b00000, 0x31]⟩ = .ok (.crc16 [0x31]) := by rfl
theorem test_decode_encode : decode ⟨.opsel, [0b00001, 0x4c, 0x10, 0x00, 0x6b, 0xbf]⟩ = .ok (.encode msgP10) := by rfl
theorem test_decode_decode : decode ⟨.opsel, [0b00010, 0x6c, 0x10]⟩ = .ok (.decode [0x6c, 0x10]) := by rfl
theorem test_decode_computecrc :
    decode ⟨.opsel, [0b00011, 0x4c, 0x10, 0x00, 0x6b, 0xbf]⟩ = .ok (.computecrc msgP10) := by rfl
theorem test_decode_verify : decode ⟨.opsel, [0b00100, 0x4c, 0x10, 0x00, 0x6b, 0xbf]⟩ = .ok (.verify msgP10) := by rfl
theorem test_decode_start : decode ⟨.rxw, [0b01001100, 0b1]⟩ = .ok (.start 0x4c) ∧
    decode ⟨.opsel, [0b00101, 0x4c]⟩ = .ok (.start 0x4c) := ⟨rfl, rfl⟩
theorem test_decode_feed : decode ⟨.rxw, [0b01001100, 0b0]⟩ = .ok (.feed 0x4c) ∧
    decode ⟨.opsel, [0b00110, 0x4c]⟩ = .ok (.feed 0x4c) := ⟨rfl, rfl⟩
theorem test_decode_rxword : decode ⟨.opsel, [0b00111, 0x4c, 0x01]⟩ = .ok (.rxword 0x14c) := by rfl
theorem test_decode_txframe :
    decode ⟨.opsel, [0b01000, 0x6c, 0x10, 0xaa]⟩ = .ok (.txframe 0x6c 0x10 [0xaa]) := by rfl
theorem test_decode_busframe :
    decode ⟨.opsel, [0b01001, 0x4c, 0x10, 0x00, 0x6b, 0xbf]⟩ = .ok (.busframe msgP10) := by rfl
theorem test_decode_poll : decode ⟨.opsel, [0b01010, 0x10]⟩ = .ok (.poll 0x10) := by rfl
theorem test_decode_enq :
    decode ⟨.opsel, [0b01011, 0x6c, 0x10, 0x01, 0x01, 0x76, 0x93]⟩ = .ok (.enq msgB) := by rfl
theorem test_decode_seenins : decode ⟨.opsel, [0b01100, 0x10]⟩ = .ok (.seenins 0x10) := by rfl
theorem test_decode_defresp : decode ⟨.opsel, [0b01101, 0x10]⟩ = .ok (.defresp 0x10) := by rfl
theorem test_decode_pendtake : decode ⟨.opsel, [0b01110, 0x10]⟩ = .ok (.pendtake 0x10) := by rfl
theorem test_decode_tryinsert :
    decode ⟨.opsel, [0b01111, 0x02, 0x6c, 0x10, 0x01, 0x01, 0x76, 0x93]⟩ = .ok (.tryinsert .h2b msgB) := by rfl
theorem test_decode_pophead : decode ⟨.opsel, [0b10000, 0x01]⟩ = .ok (.pophead .h2b) := by rfl
theorem test_decode_hsubmit :
    decode ⟨.opsel, [0b10001, 0x6c, 0x10, 0x01, 0x01, 0x76, 0x93]⟩ = .ok (.hsubmit msgB) := by rfl
theorem test_decode_hdrain : decode ⟨.opsel, [0b10010]⟩ = .ok .hdrain := by rfl
theorem test_decode_hpop : decode ⟨.opsel, [0b10011]⟩ = .ok .hpop := by rfl
theorem test_decode_hexline : decode ⟨.opsel, [0b10100, 0x4c]⟩ = .ok (.hexline [0x4c]) := by rfl
theorem test_decode_tPoll :
    decode ⟨.typeByte .bus, [0b01001100, 0x10, 0x00, 0x6b, 0xbf]⟩ = .ok (.tPoll .bus msgP10) := by rfl
theorem test_decode_tData :
    decode ⟨.typeByte .host, [0b01101100, 0x10, 0x01, 0x01, 0x76, 0x93]⟩ = .ok (.tData .host msgB) := by rfl
theorem test_decode_tOther :
    decode ⟨.typeByte .bus, [0x55, 0x33, 0x03, 0x01, 0x02, 0x03, 0x2b, 0x44]⟩ = .ok (.tOther .bus msgX) := by rfl
theorem test_decode_rejects : decode ⟨.opsel, [0b10101]⟩ = .error (.unusedOpsel 0b10101) ∧
    decode ⟨.opsel, [0b100000]⟩ = .error .reservedBits ∧ decode ⟨.rxw, [0x4c, 0x02]⟩ = .error .reservedBits ∧
    decode ⟨.opsel, [0b10010, 0x00]⟩ = .error .trailingBytes ∧ decode ⟨.opsel, []⟩ = .error .truncated ∧
    decode ⟨.opsel, [0b10000, 0x02]⟩ = .error (.badQueue 0x02) := ⟨rfl, rfl, rfl, rfl, rfl, rfl⟩
theorem test_table_words : decodeTableWord 9 0x14c = some (.start 0x4c) ∧
    decodeTableWord 8 0x4c = some (.tPoll .bus ⟨0x4c, 0, 0, [], 0, rfl⟩) ∧
    decodeTableWord 5 0b01000 = some (.txframe 0 0 []) := ⟨rfl, rfl, rfl⟩

/-! ## One operation each -/

/-- Part 2.1. -/
theorem test_crc16_check_value :
    crc16 [0x31, 0x32, 0x33, 0x34, 0x35, 0x36, 0x37, 0x38, 0x39] = 0x31c3 := by decide +kernel
/-- Part 2.1. -/
theorem test_crc16_values : crc16 [] = 0 ∧ crc16 [0x80] = 0x9188 ∧ crc16 [0xff, 0xff] = 0x1d0f := by decide +kernel
/-- Part 2.1: frame `A` without its CRC, and the stored CRC is not read. -/
theorem test_computecrc_A : answers (exec (.computecrc msgBad) State.reset)
    (fun t => t.outcome.ret == .u16 0xb6a4) = true := by decide +kernel
/-- Part 2.2. -/
theorem test_encode_A : encodeFrame msgA = [0x6c, 0x10, 0x04, 0xde, 0xad, 0xbe, 0xef, 0xb6, 0xa4] := by decide +kernel
/-- Part 2.2: two extra bytes are ignored. -/
theorem test_decode_frame_extra :
    decodeFrame [0x6c, 0x10, 0x04, 0xde, 0xad, 0xbe, 0xef, 0xb6, 0xa4, 0x77, 0x77] = some msgA := by decide +kernel
/-- Part 2.2: eight bytes where nine are needed. -/
theorem test_decode_frame_short : decodeFrame [0x6c, 0x10, 0x04, 0xde, 0xad, 0xbe, 0xef, 0xb6] = none := by decide +kernel
/-- Part 2.2. -/
theorem test_verify : verify msgA = true ∧ verify msgBad = false ∧ verify ⟨0, 0, 0, [], 0, rfl⟩ = true := by
  decide +kernel
/-- Part 2.2: the line of frame `A`. -/
theorem test_hexline_A : hexLine (encodeFrame msgA) = "6c1004deadbeefb6a4\n".toList := by decide +kernel
/-- Part 2.3: `START` inside a frame. -/
theorem test_start_inside_frame : answers (exec (.start 0x4c) (collecting 4 4)) (fun t =>
    t.pState == .collecting && t.pos == 1 && t.mType == 0x4c && t.mLen == 0 && t.errLog == []) = true := by
  decide +kernel
/-- Part 2.3: `FEED` at reset. -/
theorem test_feed_at_reset : answers (exec (.feed 0xaa) State.reset) (fun t =>
    t.errLog == [⟨.feed, .frameOverrun 0xaa⟩] && t.outcome.ret == .feed .refused && t.pState == .idle) = true := by
  decide +kernel
/-- Part 2.3: the row of `0x0ad` of frame `A`: `pos` is 5 after it and the frame is not complete. -/
theorem test_feed_pos_5 : answers (exec (.feed 0xad) (collecting 4 4)) (fun t =>
    t.pos == 5 && t.outcome.ret == .feed .pending && t.mData.take 2 == [0x00, 0xad]) = true := by decide +kernel
/-- 42_framing_gate.md R100, the last word of `P10`, to an unseen address: relayed, no answer (part 3, P1). -/
theorem test_rxword_completes_poll : answers (exec (.rxword 0x0bf)
    { collecting 4 0 with mType := 0x4c, mAddr := 0x10, mCrc := 0x6b00 }) (fun t =>
      t.b2h == [msgP10] && t.txLog == [] && t.pState == .idle && t.pos == 5) = true := by decide +kernel
/-- Part 2.4. -/
theorem test_rxword_marked : answers (exec (.rxword 0x1ff) State.reset) (fun t => t.mType == 0xff) = true := by
  decide +kernel
/-- Part 2.4. -/
theorem test_txframe_events :
    answers (exec (.txframe 0x6c 0x10 [0x00, 0xed, 0x79]) { State.reset with txMarker := true }) (fun t =>
      t.txLog == [.word 0x16c, .drain, .word 0x010, .word 0x000, .word 0x0ed, .word 0x079, .drain] &&
        t.txMarker == false) = true := by decide +kernel
/-- Part 2.5: a full `b2h` does not stop the answer. -/
theorem test_busframe_full : answers (exec (.busframe msgP10) { fullState with pend := [] }) (fun t =>
    t.b2h == fullState.b2h && t.errLog == [⟨.busframe, .queueFull .b2h msgP10⟩] && t.txLog.length == 9) = true := by
  decide +kernel
/-- Part 2.5: a bad CRC. -/
theorem test_busframe_bad_crc : answers (exec (.busframe msgBad) State.reset) (fun t =>
    t.b2h == [] && t.errLog == [⟨.busframe, .crcMismatch msgBad⟩]) = true := by decide +kernel
/-- Part 2.5. -/
theorem test_poll_takes_A : answers (exec (.poll 0x10) (relayState [0x10] [msgA])) (fun t =>
    t.pend == [] && t.txLog == [.word 0x16c, .drain, .word 0x010, .word 0x004, .word 0x0de, .word 0x0ad, .word 0x0be,
      .word 0x0ef, .word 0x0b6, .word 0x0a4, .drain]) = true := by decide +kernel
/-- Part 2.5: the entry's address is not seen. -/
theorem test_poll_unseen_entry_stays : answers (exec (.poll 0x20) (relayState [0x10] [msgD])) (fun t =>
    t.pend == [msgD] && t.txLog == [] && t.errLog == []) = true := by decide +kernel
/-- Part 2.5. -/
theorem test_enq_D : answers (exec (.enq msgD) (relayState [0x10] [msgA])) (fun t =>
    t.pend == [msgA, msgD] && t.seen == [0x10, 0x20]) = true := by decide +kernel
/-- Part 2.5: `pend` full, both values of `SEEN_ON_FULL`. -/
theorem test_enq_full : (enqWith true msgD { fullState with seen := [0x10] }).seen = [0x10, 0x20] ∧
    (enqWith false msgD { fullState with seen := [0x10] }).seen = [0x10] := by decide +kernel
/-- Part 2.5: a full set. -/
theorem test_seenins_full : answers (exec (.seenins 0x0b) fullState) (fun t => t.seen == fullState.seen) = true := by
  decide +kernel
/-- Part 2.2. -/
theorem test_defresp : (defResp 0x10).crc = 0xf9c0 ∧ (defResp 0x20).crc = 0xd529 ∧ (defResp 0xff).crc = 0xa9c4 := by
  decide +kernel
/-- Part 2.5. -/
theorem test_pendtake : answers (exec (.pendtake 0x10) (relayState [] [msgD, msgB, msgC])) (fun t =>
    t.pend == [msgD, msgC] && t.outcome.ret == .optMessage (some msgB)) = true := by decide +kernel
/-- Part 2.6. -/
theorem test_tryinsert_99 : answers (exec (.tryinsert .b2h msgX) { fullState with b2h := List.replicate 99 msgP10 })
    (fun t => t.b2h.length == 100 && t.outcome.ret == .insert .ok) = true := by decide +kernel
/-- Part 2.6. -/
theorem test_tryinsert_full : answers (exec (.tryinsert .b2h msgX) fullState)
    (fun t => t.b2h == fullState.b2h && t.outcome.ret == .insert .full && t.errLog == []) = true := by decide +kernel
/-- 44_queue_bridge.md R124, worked example. -/
theorem test_pophead : answers (exec (.pophead .b2h) { State.reset with b2h := [msgX, msgB] })
    (fun t => t.b2h == [msgB] && t.outcome.ret == .optMessage (some msgX)) = true := by decide +kernel
/-- Part 2.6: a type that is not `0x6c`, and a bad CRC. -/
theorem test_hsubmit_rejects :
    answers (exec (.hsubmit msgP10) State.reset) (fun t => t.outcome.ret == .submit .rejected && t.h2b == []) = true ∧
    answers (exec (.hsubmit msgBad) State.reset) (fun t => t.outcome.ret == .submit .rejected && t.errLog == []) = true := by
  decide +kernel
/-- Part 2.6. -/
theorem test_hsubmit_full : answers (exec (.hsubmit msgA) fullState) (fun t =>
    t.outcome.ret == .submit .queueFull && t.errLog == [⟨.hsubmit, .queueFull .h2b msgA⟩] && t.h2b == fullState.h2b) =
    true := by decide +kernel
/-- Part 2.6. -/
theorem test_hdrain : answers (exec .hdrain { State.reset with h2b := [msgA, msgD] }) (fun t =>
    t.h2b == [msgD] && t.pend == [msgA] && t.seen == [0x10]) = true := by decide +kernel
/-- Part 2.6. -/
theorem test_hpop : answers (exec .hpop { State.reset with b2h := [msgP10, msgX] }) (fun t =>
    t.outcome.ret == .message msgP10 && t.b2h == [msgX]) = true := by decide +kernel
/-- Part 2.6. -/
theorem test_hpop_empty : answers (exec .hpop State.reset) (fun t => t.outcome.ret == .noData) = true := by
  decide +kernel
/-- Parts 2.5, 2.6: the type-code map. -/
theorem test_tPoll : answers (exec (.tPoll .bus msgP10) (relayState [0x10] [])) (fun t =>
    t.b2h == [msgP10] && t.txLog.length == 9) = true ∧
    answers (exec (.tPoll .host msgP10) State.reset) (fun t => t.outcome.ret == .submit .rejected) = true := by
  decide +kernel
/-- Parts 2.5, 2.6. -/
theorem test_tData : answers (exec (.tData .bus msgA) State.reset) (fun t => t.b2h == [msgA] && t.seen == []) = true ∧
    answers (exec (.tData .host msgA) State.reset) (fun t => t.h2b == [msgA]) = true := by decide +kernel
/-- Parts 2.5, 2.6. -/
theorem test_tOther : answers (exec (.tOther .bus msgX) State.reset) (fun t => t.b2h == [msgX] && t.txLog == []) = true ∧
    answers (exec (.tOther .host msgX) State.reset) (fun t => t.outcome.ret == .submit .rejected) = true := by
  decide +kernel
/-- 60_exceptions.md R131: the code numbers. -/
theorem test_report_codes : (([.crcMismatch msgA, .frameOverrun 0, .queueFull .pend msgA, .unknownAddress,
    .oversizeLength 0] : List Report).map reportCode) = [1, 2, 3, 4, 5] := by decide
/-- A request is taken, decoded and run by one step. -/
theorem test_step : answers (step { State.reset with inbox := [⟨.opsel, [0b00111, 0x4c, 0x01]⟩, ⟨.opsel, [0b10010]⟩] })
    (fun t => t.mType == 0x4c && t.inbox == [⟨.opsel, [0b10010]⟩]) = true := by decide +kernel

/-! ## Witnesses: the hypotheses of each statement are met together -/

theorem witness_FirstOperationAfterReset : (0x0aa#9).getLsbD 8 = false ∧ (0x14c#9).getLsbD 8 = true ∧
    (verify msgA = true ∧ msgA.type = 0x6c) ∧ verify msgP10 = true ∧ msgP10.type = 0x4c := by decide +kernel
theorem witness_StepRunsTheDecodedInstruction :
    ({ State.reset with inbox := [⟨.opsel, [18]⟩] } : State).inbox = ⟨.opsel, [18]⟩ :: [] ∧
    decode ⟨.opsel, [18]⟩ = .ok .hdrain ∧ Instr.hdrain.wellFormed = true ∧ State.reset.inbox = [] ∧
    decode ⟨.opsel, [31]⟩ = .error (.unusedOpsel 31) := ⟨rfl, rfl, rfl, rfl, rfl⟩
theorem witness_FetchWordRunsNext : decodeTableWord 8 0x12 = some .hdrain := by rfl
theorem witness_DecodeInvertsEncode : (Instr.tOther .host msgX).wellFormed = true ∧
    (Instr.crc16 (List.replicate 65536 0xff)).wellFormed = true := ⟨by decide, rfl⟩
/-- 40_codec.md R81, R83: an operand list of more than 65535 bytes is presented like any other. -/
theorem test_decode_long_lists (l : List Byte) : decode ⟨.opsel, 0b00000 :: l⟩ = .ok (.crc16 l) ∧
    decode ⟨.opsel, 0b00010 :: l⟩ = .ok (.decode l) := ⟨rfl, rfl⟩
theorem witness_EncodeInvertsDecode : decode ⟨.opsel, [10, 0xff]⟩ = .ok (.poll 0xff) ∧
    ([10, 0xff] : List Byte).head? ≠ some 5 ∧ ([10, 0xff] : List Byte).head? ≠ some 6 := ⟨rfl, by decide, by decide⟩
theorem witness_EncodeOfDecodedFrame : 5 ≤ ([0, 0, 0, 0, 0] : List Byte).length ∧
    ([0, 0, 0, 0, 0] : List Byte).length = 5 + (([0, 0, 0, 0, 0] : List Byte).getD 2 0).toNat := by decide
theorem witness_HexLineWritesTwoDigitsAByte : 0 < ([0xff] : List Byte).length := by decide
theorem witness_FeedInIdleIsFrameOverrun : State.reset.pState = .idle := rfl
theorem witness_FeedStoresByPosition_address : (collecting 1 0).pState = .collecting ∧ ParserOk (collecting 1 0) ∧
    (collecting 1 0).pos.toNat = 1 := by decide +kernel
theorem witness_FeedStoresByPosition_length : (collecting 2 0).pState = .collecting ∧ ParserOk (collecting 2 0) ∧
    (collecting 2 0).pos.toNat = 2 := by decide +kernel
theorem witness_FeedStoresByPosition_data : (collecting 257 255).pState = .collecting ∧ ParserOk (collecting 257 255) ∧
    3 ≤ (collecting 257 255).pos.toNat ∧ (collecting 257 255).pos.toNat < 3 + (collecting 257 255).mLen.toNat := by
  decide +kernel
theorem witness_FeedStoresByPosition_crcHigh : (collecting 3 0).pState = .collecting ∧ ParserOk (collecting 3 0) ∧
    (collecting 3 0).pos.toNat = 3 + (collecting 3 0).mLen.toNat := by decide +kernel
theorem witness_FeedStoresByPosition_crcLow : (collecting 259 255).pState = .collecting ∧ ParserOk (collecting 259 255) ∧
    (collecting 259 255).pos.toNat = 4 + (collecting 259 255).mLen.toNat := by decide +kernel
theorem witness_OversizeLengthGuard : (collecting 2 0).pState = .collecting ∧ (collecting 2 0).pos = 2 ∧
    254 < (0xff#8).toNat ∧ (0xfe#8).toNat ≤ 254 := by decide
theorem witness_FrameWordsDeliverTheMessage : 4 < 5 + msgP10.length.toNat := by decide
theorem witness_PollFrameWordsAreAnswered : (0x10 : Byte) ∈ (relayState [0x10] [msgA]).seen ∧
    (relayState [0x10] [msgA]).b2h.length ≠ 100 := by decide
theorem witness_MarkedWordResynchronises : (0x100#9).getLsbD 8 = true := by decide
theorem witness_IdleRegistersAreNotRead : external (.rxword 0x0aa) = true ∧ State.reset.pState = .idle := ⟨rfl, rfl⟩
theorem witness_RxwordStartsOrFeeds : (0x1ff#9).getLsbD 8 = true ∧ (0x0ff#9).getLsbD 8 = false := by decide
theorem witness_RxwordStartsOrFeeds_complete : (parserFeed 0xbf
    { collecting 4 0 with mType := 0x4c, mAddr := 0x10, mCrc := 0x6b00 }).1 = .complete msgP10 := by decide +kernel
theorem witness_BusframeDropsBadCrc : verify msgBad = false := by decide +kernel
theorem witness_BusframeRelaysOtherTypes : verify msgX = true ∧ msgX.type ≠ 0x4c ∧ State.reset.b2h.length ≠ 100 ∧
    fullState.b2h.length = 100 := by decide +kernel
theorem witness_BusframeAnswersPolls : verify msgP10 = true ∧ msgP10.type = 0x4c ∧
    msgP10.address ∉ State.reset.seen ∧ msgP10.address ∈ fullState.seen := by decide +kernel
theorem witness_PollTransmitsOneFrame : (0x20 : Byte) ∉ fullState.seen ∧ (0x10 : Byte) ∈ fullState.seen := by decide
theorem witness_EnqAppendsAndMarksSeen :
    ({ fullState with pend := List.replicate 99 msgA } : State).pend.length ≠ 100 := by decide +kernel
theorem witness_EnqOnFullQueue : fullState.pend.length = 100 := by decide +kernel
theorem witness_SeeninsIsIdempotentAndBounded : (0x05 : Byte) ∈ fullState.seen ∧
    ((0x0b : Byte) ∉ fullState.seen ∧ fullState.seen.length = 10) ∧
    (0x0b : Byte) ∉ (relayState [1, 2, 3, 4, 5, 6, 7, 8, 9] []).seen ∧
    (relayState [1, 2, 3, 4, 5, 6, 7, 8, 9] []).seen.length ≠ 10 := by decide
theorem witness_PendtakeRemovesTheFirstMatch : (∀ m ∈ (relayState [] [msgD]).pend, m.address ≠ 0x10) ∧
    (relayState [] [msgD, msgB, msgC]).pend = [msgD] ++ msgB :: [msgC] ∧ (∀ m ∈ [msgD], m.address ≠ 0x10) ∧
    msgB.address = 0x10 := by decide
theorem witness_TryinsertRefusesAtCapacity : (readQueue .pend fullState).length = 100 ∧
    (readQueue .h2b State.reset).length ≠ 100 := by decide +kernel
theorem witness_PopheadTakesTheOldest : State.reset.b2h = [] ∧ State.reset.h2b = [] ∧
    ({ State.reset with b2h := [msgX] } : State).b2h = msgX :: [] ∧
    ({ State.reset with h2b := [msgA] } : State).h2b = msgA :: [] := ⟨rfl, rfl, rfl, rfl⟩
theorem witness_HsubmitTestsThenInserts : (verify msgBad = false ∨ msgBad.type ≠ 0x6c) ∧
    (verify msgX = false ∨ msgX.type ≠ 0x6c) ∧ verify msgA = true ∧ msgA.type = 0x6c ∧
    State.reset.h2b.length ≠ 100 ∧ fullState.h2b.length = 100 := by decide +kernel
theorem witness_HdrainMovesOneMessage : State.reset.h2b = [] ∧
    ({ State.reset with h2b := [msgA] } : State).h2b = msgA :: [] ∧
    ({ State.reset with h2b := [msgA] } : State).pend.length ≠ 100 := ⟨rfl, rfl, by decide⟩
theorem witness_HpopReturnsTheOldest : State.reset.b2h = [] ∧
    ({ State.reset with b2h := [msgX] } : State).b2h = msgX :: [] := ⟨rfl, rfl⟩
theorem witness_TypeRowsAct : verify msgP10 = true ∧ State.reset.b2h.length ≠ 100 ∧ State.reset.h2b.length ≠ 100 ∧
    msgP10.address ∉ State.reset.seen ∧ msgP10.address ∈ (relayState [0x10] []).seen := by decide +kernel
theorem witness_TypeRowsAgree : (Instr.tPoll .bus msgP10).wellFormed = true ∧ (Instr.tData .host msgA).wellFormed = true ∧
    (Instr.tOther .bus msgX).wellFormed = true := by decide
theorem witness_machineInv_reset : MachineInv State.reset :=
  ⟨by decide, by decide, by decide, by decide, by decide, by decide +kernel, by decide⟩
theorem witness_runInv_reset : RunInv State.reset :=
  { toMachineInv := witness_machineInv_reset
    h2b_acceptable := by decide
    pend_acceptable := by decide
    b2h_valid := by decide
    pend_addressed := by decide }
theorem witness_machineInv_full : MachineInv { fullState with inbox := [⟨.opsel, [18]⟩] } :=
  ⟨by decide +kernel, by decide, by decide +kernel, by decide +kernel, by decide +kernel, by decide +kernel, by decide⟩
theorem witness_StepKeepsMachineInv : ∃ t, MachineInv { fullState with inbox := [⟨.opsel, [18]⟩] } ∧
    step { fullState with inbox := [⟨.opsel, [18]⟩] } = .next t := ⟨_, witness_machineInv_full, rfl⟩
theorem witness_ExternalStepKeepsRunInv : ∃ t, RunInv { State.reset with inbox := [⟨.opsel, [18]⟩] } ∧
    (∀ r rest i, ({ State.reset with inbox := [⟨.opsel, [18]⟩] } : State).inbox = r :: rest → decode r = .ok i →
      external i = true) ∧
    step { State.reset with inbox := [⟨.opsel, [18]⟩] } = .next t := by
  have h := witness_runInv_reset
  refine ⟨_, ⟨⟨h.1.1, h.1.2, h.1.3, h.1.4, h.1.5, h.1.6, h.1.7⟩, h.2, h.3, h.4, h.5⟩, ?_, rfl⟩
  intro r rest i hr hd
  cases hr
  cases hd
  rfl
theorem witness_SeenOnlyGrows : ∃ t, exec (.seenins 0x0b) fullState = .next t ∧ fullState.seen.length = 10 :=
  ⟨_, rfl, by decide⟩
theorem witness_TracesGrowByTheOutcome : ∃ t, exec (.poll 0x10) fullState = .next t := ⟨_, rfl⟩
theorem witness_OnlyTheThreeLiveErrorKinds : ∃ t, exec (.feed 0xaa) State.reset = .next t ∧
    (⟨.feed, .frameOverrun 0xaa⟩ : ErrEntry) ∈ t.outcome.errs := ⟨_, rfl, by decide⟩
theorem witness_AtMostOneReport : answers (exec (.rxword 0x0bf)
    { fullState with pState := .collecting, pos := 4, mType := 0x4c, mAddr := 0x10, mCrc := 0x6b00 }) (fun t =>
      external (.rxword 0x0bf) && !(t.outcome.tx == []) && t.outcome.errs.length == 1) = true := by decide +kernel
/-- A run's state one word before the end of a poll of `0x10`, with `A` waiting. -/
def pollEnding : State :=
  { State.reset with
    pState := .collecting, pos := 4, mType := 0x4c, mAddr := 0x10, mCrc := 0x6b00, seen := [0x10], pend := [msgA] }
theorem witness_TransmittedFramesAreValid : RunInv pollEnding ∧ external (.rxword 0x0bf) = true ∧
    answers (exec (.rxword 0x0bf) pollEnding) (fun t => !(t.outcome.tx == [])) = true :=
  ⟨{ seen_bound := by decide
     seen_nodup := by decide
     pend_bound := by decide
     b2h_bound := by decide
     h2b_bound := by decide
     parser := by decide +kernel
     marker := by decide
     h2b_acceptable := by decide
     pend_acceptable := by decide +kernel
     b2h_valid := by decide
     pend_addressed := by decide }, rfl, by decide +kernel⟩
theorem witness_SubmitKeepsTheFirstHundred : State.reset.h2b = [] ∧
    ∀ m ∈ List.replicate 101 msgA, verify m = true ∧ m.type = 0x6c :=
  ⟨rfl, fun m hm => by rw [List.eq_of_mem_replicate hm]; decide +kernel⟩
theorem witness_TryinsertKeepsTheFirstHundred : readQueue .pend State.reset = [] := rfl
theorem witness_BridgeFifosKeepOrder : 100 ≤ ({ fullState with pend := [] } : State).h2b.length ∧
    ({ fullState with pend := [] } : State).pend.length + 100 ≤ 100 ∧ fullState.b2h[99]? = some msgP10 := by
  decide +kernel
theorem witness_PollsKeepOrderPerAddress : (0x10 : Byte) ∈ (relayState [0x10] [msgD, msgB, msgC]).seen := by decide
theorem witness_UntrackedEntriesNeverLeave : ∃ t, external .hdrain = true ∧ fullState.seen.length = 10 ∧
    (0x20 : Byte) ∉ fullState.seen ∧ exec .hdrain fullState = .next t := ⟨_, rfl, by decide, by decide, rfl⟩
theorem witness_NoAnswerBeforeTheFirstDrain : State.reset.seen = [] ∧
    ∀ i ∈ [Instr.hsubmit msgA, Instr.rxword 0x14c], external i = true ∧ i ≠ .hdrain := by decide

end Sys2Proof.Tests
end

/-! ## What a step and the shared operations can do

The case lemmas that Laws does not have; the proofs below split along these. -/

namespace Sys2Proof.Machine

/-- Everything a step that answers can have done: idle, or one decoded operation run whole (20_memory.md R52). -/
theorem step_cases {s t : State} (h : step s = .next t) :
    (s.inbox = [] ∧ t = s) ∨
    ∃ r rest i, s.inbox = r :: rest ∧ decode r = .ok i ∧ exec i (takeRequest rest s) = .next t := by
  unfold step at h
  split at h
  next hi => exact .inl ⟨hi, (Host.Outcome.next.inj h).symm⟩
  next r rest hi =>
    split at h
    next i hd => exact .inr ⟨r, rest, i, hi, hd, h⟩
    next => cases h

/-- The operations started from outside are the four of 00_scope.md R8. -/
theorem external_cases {i : Instr} (h : external i = true) :
    (∃ w, i = .rxword w) ∨ (∃ m, i = .hsubmit m) ∨ i = .hdrain ∨ i = .hpop := by
  cases i <;> simp_all [external]

theorem exec_rxword (w : Word9) (s : State) : exec (.rxword w) s = .next (rxWord w (beginOp s)) := rfl

theorem exec_hsubmit (m : Message) (s : State) :
    exec (.hsubmit m) s = .next (returns (hostSubmit m (beginOp s)).1 (hostSubmit m (beginOp s)).2) := rfl

theorem exec_hdrain (s : State) : exec .hdrain s = .next (hostDrain (beginOp s)) := rfl

theorem exec_hpop (s : State) : exec .hpop s = .next (returns (hostPop (beginOp s)).1 (hostPop (beginOp s)).2) := rfl

theorem tryInsert_cases (q : QueueId) (m : Message) (s : State) :
    ((readQueue q s).length = 100 ∧ tryInsert q m s = (.full, s)) ∨
    ((readQueue q s).length ≠ 100 ∧ tryInsert q m s = (.ok, writeQueue q (readQueue q s ++ [m]) s)) := by
  by_cases h : (readQueue q s).length = 100
  · exact .inl ⟨h, tryInsert_full (h.trans (queueCap_eq q).symm) m⟩
  · exact .inr ⟨h, tryInsert_ok (fun e => h (e.trans (queueCap_eq q))) m⟩

theorem popHead_cases (q : FifoId) (s : State) :
    (readQueue (fifoQueue q) s = [] ∧ popHead q s = (none, s)) ∨
    ∃ m rest, readQueue (fifoQueue q) s = m :: rest ∧ popHead q s = (some m, writeQueue (fifoQueue q) rest s) := by
  cases h : readQueue (fifoQueue q) s with
  | nil => exact .inl ⟨rfl, popHead_nil h⟩
  | cons m rest => exact .inr ⟨m, rest, rfl, popHead_cons h⟩

theorem pendTake_eq (a : Byte) (s : State) :
    pendTake a s =
      (s.pend.find? (fun m => m.address == a), { s with pend := s.pend.eraseP (fun m => m.address == a) }) := by
  simp [pendTake, takeFirst_eq]

/-- `BUSFRAME` before its action: the bad CRC reported, the relay into a full `b2h` reported, or the relay. -/
theorem busFrameThen_cases (m : Message) (f : State → State) (s : State) :
    (verify m = false ∧ busFrameThen m f s = raise .busframe (.crcMismatch m) s) ∨
    (verify m = true ∧ s.b2h.length = 100 ∧ busFrameThen m f s = f (raise .busframe (.queueFull .b2h m) s)) ∨
    (verify m = true ∧ s.b2h.length ≠ 100 ∧ busFrameThen m f s = f (writeQueue .b2h (s.b2h ++ [m]) s)) := by
  cases hv : verify m with
  | false => exact .inl ⟨rfl, busFrameThen_bad hv f s⟩
  | true =>
    by_cases hr : s.b2h.length = 100
    · exact .inr (.inl ⟨rfl, hr, busFrameThen_full hv hr f⟩)
    · exact .inr (.inr ⟨rfl, hr, busFrameThen_room hv hr f⟩)

/-- `RXWORD`: a marked word starts a frame; an unmarked one is fed, and a frame it completes goes to `BUSFRAME`
(42_framing_gate.md R100). -/
theorem rxWord_cases (w : Word9) (s : State) :
    (wordMarker w = true ∧ rxWord w s = parserStart (wordByte w) s) ∨
    (wordMarker w = false ∧ ∃ m t, parserFeed (wordByte w) s = (.complete m, t) ∧ rxWord w s = busFrame m t) ∨
    (wordMarker w = false ∧ (∀ m, (parserFeed (wordByte w) s).1 ≠ .complete m) ∧
      rxWord w s = (parserFeed (wordByte w) s).2) := by
  unfold rxWord
  cases wordMarker w with
  | true => exact .inl ⟨rfl, rfl⟩
  | false =>
    rcases parserFeed (wordByte w) s with ⟨_ | m | _, t⟩
    · exact .inr (.inr ⟨rfl, nofun, rfl⟩)
    · exact .inr (.inl ⟨rfl, m, t, rfl, rfl⟩)
    · exact .inr (.inr ⟨rfl, nofun, rfl⟩)

/-- `FEED` writes parser registers and traces only. -/
theorem parserFeed_keeps_queues (b : Byte) (s : State) :
    (parserFeed b s).2.seen = s.seen ∧ (parserFeed b s).2.pend = s.pend ∧
    (parserFeed b s).2.b2h = s.b2h ∧ (parserFeed b s).2.h2b = s.h2b := by
  obtain ⟨_, e⟩ | ⟨_, _, _, _, _, _, _, ⟨e, _⟩ | e⟩ := parserFeed_cases b s <;> simp [e]

/-- The state `HSUBMIT` leaves once it accepted is that of the insert (44_queue_bridge.md R121). -/
theorem submitAccepted_snd (m : Message) (s : State) :
    (submitAccepted m s).2 = (insertOrRaise .hsubmit .h2b m s).2 := by
  unfold submitAccepted
  obtain ⟨_, e⟩ | ⟨_, e⟩ := insertOrRaise_cases .hsubmit .h2b m s <;> rw [e]

/-- The state `HPOP` leaves is that of the pop (44_queue_bridge.md R123). -/
theorem hostPop_snd (s : State) : (hostPop s).2 = (popHead .b2h s).2 := by
  unfold hostPop
  obtain ⟨_, e⟩ | ⟨_, _, _, e⟩ := popHead_cases .b2h s <;> rw [e]

/-! ## `MachineInv` after each shared operation -/

section MachineInv

variable {s : State}

theorem MachineInv.after_beginOp (h : MachineInv s) : MachineInv (beginOp s) := { h with }

theorem MachineInv.after_returns (h : MachineInv s) (r : Ret) : MachineInv (returns r s) := { h with }

theorem MachineInv.after_raise (h : MachineInv s) (who : Op) (k : Report) : MachineInv (raise who k s) := { h with }

theorem MachineInv.after_takeRequest (h : MachineInv s) (rest : List Request) : MachineInv (takeRequest rest s) :=
  { h with }

theorem MachineInv.after_parserStart (h : MachineInv s) (t : Byte) : MachineInv (parserStart t s) :=
  { h with parser := ⟨List.length_replicate, fun _ => by simp⟩ }

/-- A byte stored without completing the frame leaves `pos` in the range of the frame: it is at most one past the last
position, and one past it is completion (10_state.md R29 (f)). -/
theorem parserOk_of_pending {ln : Byte} {da : List Byte} (h : ParserOk s) (hc : s.pState = .collecting)
    (hd : da.length = s.mData.length) (hn : ln = s.mLen ∨ s.pos.toNat = 2)
    (hp : ¬ (5 ≤ (s.pos + 1).toNat ∧ (s.pos + 1).toNat = 5 + ln.toNat)) (ad : Byte) (cr : Crc) :
    ParserOk { s with mAddr := ad, mLen := ln, mData := da, mCrc := cr, pos := s.pos + 1 } := by
  obtain ⟨hlen, hrange⟩ := h
  obtain ⟨hlow, hhigh⟩ := hrange hc
  have hbyte := s.mLen.isLt
  have hnowrap : (s.pos + 1).toNat = s.pos.toNat + 1 := by
    have h1 : (1 : BitVec 9).toNat = 1 := rfl
    rw [BitVec.toNat_add_of_lt (by omega), h1]
  refine ⟨hd.trans hlen, fun _ => ?_⟩
  simp only [hnowrap] at hp ⊢
  obtain rfl | h2 := hn <;> omega

theorem MachineInv.after_parserFeed (h : MachineInv s) (b : Byte) : MachineInv (parserFeed b s).2 := by
  obtain ⟨_, e⟩ | ⟨hc, ad, ln, da, cr, hd, hn, ⟨e, hp⟩ | e⟩ := parserFeed_cases b s <;> rw [e]
  · exact h.after_raise _ _
  · exact { h with parser := parserOk_of_pending h.parser hc hd hn hp ad cr }
  · exact { h with parser := ⟨hd.trans h.parser.1, nofun⟩ }

/-- A transmission ends with the marker mode clear (42_framing_gate.md R102). -/
theorem MachineInv.after_txFrame (h : MachineInv s) {f : List Byte} (hf : f ≠ []) : MachineInv (txFrame f s) := by
  rw [txFrame_eq f hf]
  exact { h with marker := fun _ => rfl }

theorem MachineInv.after_seenInsert (h : MachineInv s) (a : Byte) : MachineInv (seenInsert a s) := by
  unfold seenInsert
  split
  next => exact h
  next hnew =>
    split
    next => exact h
    next hroom =>
      exact { h with
        seen_bound := by
          have hb := h.seen_bound
          simp only [List.length_append, List.length_singleton]
          omega
        seen_nodup := List.nodup_append.mpr ⟨h.seen_nodup, List.nodup_singleton a, by grind⟩ }

theorem MachineInv.readQueue_length_le (h : MachineInv s) : ∀ q : QueueId, (readQueue q s).length ≤ 100
  | .pend => h.pend_bound
  | .b2h => h.b2h_bound
  | .h2b => h.h2b_bound

theorem MachineInv.after_writeQueue (h : MachineInv s) {l : List Message} (hl : l.length ≤ 100) :
    ∀ q : QueueId, MachineInv (writeQueue q l s)
  | .pend => { h with pend_bound := hl }
  | .b2h => { h with b2h_bound := hl }
  | .h2b => { h with h2b_bound := hl }

/-- A queue that is not full takes one more. -/
theorem MachineInv.after_append (h : MachineInv s) {q : QueueId} (hr : (readQueue q s).length ≠ 100) (m : Message) :
    MachineInv (writeQueue q (readQueue q s ++ [m]) s) := by
  have hb := h.readQueue_length_le q
  exact h.after_writeQueue (by simp only [List.length_append, List.length_singleton]; omega) q

theorem MachineInv.after_tryInsert (h : MachineInv s) (q : QueueId) (m : Message) :
    MachineInv (tryInsert q m s).2 := by
  obtain ⟨_, e⟩ | ⟨hr, e⟩ := tryInsert_cases q m s <;> rw [e]
  · exact h
  · exact h.after_append hr m

theorem MachineInv.after_insertOrRaise (h : MachineInv s) (who : Op) (q : QueueId) (m : Message) :
    MachineInv (insertOrRaise who q m s).2 := by
  obtain ⟨_, e⟩ | ⟨hr, e⟩ := insertOrRaise_cases who q m s <;> rw [e]
  · exact h.after_raise _ _
  · exact h.after_append hr m

theorem MachineInv.after_popHead (h : MachineInv s) (q : FifoId) : MachineInv (popHead q s).2 := by
  obtain ⟨_, e⟩ | ⟨m, rest, hq, e⟩ := popHead_cases q s <;> rw [e]
  · exact h
  · have hb := h.readQueue_length_le (fifoQueue q)
    rw [hq, List.length_cons] at hb
    exact h.after_writeQueue (by omega) _

theorem MachineInv.after_pendTake (h : MachineInv s) (a : Byte) : MachineInv (pendTake a s).2 := by
  rw [pendTake_eq]
  exact { h with pend_bound := (List.length_eraseP_le ..).trans h.pend_bound }

theorem MachineInv.after_pollAddress (h : MachineInv s) (a : Byte) : MachineInv (pollAddress a s) := by
  unfold pollAddress
  split
  · exact (h.after_pendTake a).after_txFrame (encodeFrame_ne_nil _)
  · exact h

theorem MachineInv.after_enqWith (h : MachineInv s) (k : Bool) (m : Message) : MachineInv (enqWith k m s) := by
  by_cases hr : s.pend.length = 100
  · have hraised := h.after_raise .enq (.queueFull .pend m)
    rw [enqWith_full hr]
    split
    · exact hraised.after_seenInsert _
    · exact hraised
  · rw [enqWith_room hr]
    exact (h.after_append (q := .pend) hr m).after_seenInsert _

theorem MachineInv.after_busFrameThen (h : MachineInv s) (m : Message) {f : State → State}
    (hf : ∀ u, MachineInv u → MachineInv (f u)) : MachineInv (busFrameThen m f s) := by
  obtain ⟨_, e⟩ | ⟨_, _, e⟩ | ⟨_, hr, e⟩ := busFrameThen_cases m f s <;> rw [e]
  · exact h.after_raise _ _
  · exact hf _ (h.after_raise _ _)
  · exact hf _ (h.after_append (q := .b2h) hr m)

theorem MachineInv.after_busFrame (h : MachineInv s) (m : Message) : MachineInv (busFrame m s) := by
  refine h.after_busFrameThen m fun u hu => ?_
  split
  · exact hu.after_pollAddress _
  · exact hu

theorem MachineInv.after_rxWord (h : MachineInv s) (w : Word9) : MachineInv (rxWord w s) := by
  have hfed := h.after_parserFeed (wordByte w)
  obtain ⟨_, e⟩ | ⟨_, m, t, hm, e⟩ | ⟨_, _, e⟩ := rxWord_cases w s <;> rw [e]
  · exact h.after_parserStart _
  · rw [hm] at hfed
    exact hfed.after_busFrame m
  · exact hfed

theorem MachineInv.after_submitAccepted (h : MachineInv s) (m : Message) : MachineInv (submitAccepted m s).2 := by
  rw [submitAccepted_snd]
  exact h.after_insertOrRaise _ _ m

theorem MachineInv.after_hostSubmit (h : MachineInv s) (m : Message) : MachineInv (hostSubmit m s).2 := by
  unfold hostSubmit
  split
  · exact h.after_submitAccepted m
  · exact h

theorem MachineInv.after_hostDrain (h : MachineInv s) : MachineInv (hostDrain s) := by
  have hpop := h.after_popHead .h2b
  unfold hostDrain
  obtain ⟨_, e⟩ | ⟨m, rest, _, e⟩ := popHead_cases .h2b s <;> rw [e] at hpop ⊢
  · exact hpop
  · exact hpop.after_enqWith _ m

theorem MachineInv.after_hostPop (h : MachineInv s) : MachineInv (hostPop s).2 := by
  rw [hostPop_snd]
  exact h.after_popHead .b2h

/-- Every operation ends, and keeps `MachineInv`, whoever starts it. -/
theorem MachineInv.after_exec (h : MachineInv s) : ∀ i : Instr, ∃ t, exec i s = .next t ∧ MachineInv t
  | .crc16 _ => ⟨_, rfl, h.after_beginOp.after_returns _⟩
  | .encode _ => ⟨_, rfl, h.after_beginOp.after_returns _⟩
  | .decode _ => ⟨_, rfl, h.after_beginOp.after_returns _⟩
  | .computecrc _ => ⟨_, rfl, h.after_beginOp.after_returns _⟩
  | .verify _ => ⟨_, rfl, h.after_beginOp.after_returns _⟩
  | .start t => ⟨_, rfl, h.after_beginOp.after_parserStart t⟩
  | .feed b => ⟨_, rfl, (h.after_beginOp.after_parserFeed b).after_returns _⟩
  | .rxword w => ⟨_, rfl, h.after_beginOp.after_rxWord w⟩
  | .txframe f0 f1 rest => ⟨_, rfl, h.after_beginOp.after_txFrame (List.cons_ne_nil f0 (f1 :: rest))⟩
  | .busframe m => ⟨_, rfl, h.after_beginOp.after_busFrame m⟩
  | .poll a => ⟨_, rfl, h.after_beginOp.after_pollAddress a⟩
  | .enq m => ⟨_, rfl, h.after_beginOp.after_enqWith _ m⟩
  | .seenins a => ⟨_, rfl, h.after_beginOp.after_seenInsert a⟩
  | .defresp _ => ⟨_, rfl, h.after_beginOp.after_returns _⟩
  | .pendtake a => ⟨_, rfl, (h.after_beginOp.after_pendTake a).after_returns _⟩
  | .tryinsert q m => ⟨_, rfl, (h.after_beginOp.after_tryInsert q m).after_returns _⟩
  | .pophead q => ⟨_, rfl, (h.after_beginOp.after_popHead q).after_returns _⟩
  | .hsubmit m => ⟨_, rfl, (h.after_beginOp.after_hostSubmit m).after_returns _⟩
  | .hdrain => ⟨_, rfl, h.after_beginOp.after_hostDrain⟩
  | .hpop => ⟨_, rfl, h.after_beginOp.after_hostPop.after_returns _⟩
  | .hexline _ => ⟨_, rfl, h.after_beginOp.after_returns _⟩
  | .tPoll .bus m => ⟨_, rfl, h.after_beginOp.after_busFrameThen m fun _ hu => hu.after_pollAddress _⟩
  | .tPoll .host _ => ⟨_, rfl, h.after_beginOp.after_returns _⟩
  | .tData .bus m => ⟨_, rfl, h.after_beginOp.after_busFrameThen m fun _ hu => hu⟩
  | .tData .host m => ⟨_, rfl, by
      split
      · exact (h.after_beginOp.after_submitAccepted m).after_returns _
      · exact h.after_beginOp.after_returns _⟩
  | .tOther .bus m => ⟨_, rfl, h.after_beginOp.after_busFrameThen m fun _ hu => hu⟩
  | .tOther .host _ => ⟨_, rfl, h.after_beginOp.after_returns _⟩

end MachineInv

/-- Settles O46: each operation is made of shared operations that keep `MachineInv`. -/
theorem stepKeepsMachineInv : Obligations.StepKeepsMachineInv := by
  intro s t hs hstep
  obtain ⟨_, rfl⟩ | ⟨_, rest, i, _, _, he⟩ := step_cases hstep
  · exact hs
  · obtain ⟨u, hu, inv⟩ := (hs.after_takeRequest rest).after_exec i
    obtain rfl := Host.Outcome.next.inj (hu.symm.trans he)
    exact inv

/-! ## `RunInv` after the operations started from outside -/

/-- R29 (g) for one address: it is seen, or `seen` is full and takes no more. -/
def SeenOrFull (a : Byte) (s : State) : Prop :=
  a ∈ s.seen ∨ s.seen.length = Config.seenCap

/-- After `SEENINS(a)` the address `a` is seen, or the set is full. -/
theorem seenOrFull_seenInsert_self (a : Byte) (s : State) : SeenOrFull a (seenInsert a s) := by
  rw [seenInsert_eq]
  unfold SeenOrFull
  grind

/-- `SEENINS` forgets no address, and a full set stays as it is. -/
theorem SeenOrFull.after_seenInsert {a : Byte} {s : State} (h : SeenOrFull a s) (b : Byte) :
    SeenOrFull a (seenInsert b s) := by
  rw [seenInsert_eq]
  unfold SeenOrFull at *
  grind

section RunInv

variable {s t : State}

/-- The queue clauses of `RunInv` survive whatever only removes entries and leaves `seen` alone. -/
theorem RunInv.of_queues_shrink (h : RunInv s) (ht : MachineInv t) (hseen : t.seen = s.seen) (hpend : t.pend ⊆ s.pend)
    (hb2h : t.b2h ⊆ s.b2h) (hh2b : t.h2b ⊆ s.h2b) : RunInv t where
  toMachineInv := ht
  h2b_acceptable m hm := h.h2b_acceptable m (hh2b hm)
  pend_acceptable m hm := h.pend_acceptable m (hpend hm)
  b2h_valid m hm := h.b2h_valid m (hb2h hm)
  pend_addressed m hm := hseen ▸ h.pend_addressed m (hpend hm)

theorem RunInv.after_beginOp (h : RunInv s) : RunInv (beginOp s) :=
  { h with toMachineInv := h.toMachineInv.after_beginOp }

theorem RunInv.after_returns (h : RunInv s) (r : Ret) : RunInv (returns r s) :=
  { h with toMachineInv := h.toMachineInv.after_returns r }

theorem RunInv.after_raise (h : RunInv s) (who : Op) (k : Report) : RunInv (raise who k s) :=
  { h with toMachineInv := h.toMachineInv.after_raise who k }

theorem RunInv.after_takeRequest (h : RunInv s) (rest : List Request) : RunInv (takeRequest rest s) :=
  { h with toMachineInv := h.toMachineInv.after_takeRequest rest }

theorem RunInv.after_parserStart (h : RunInv s) (b : Byte) : RunInv (parserStart b s) :=
  { h with toMachineInv := h.toMachineInv.after_parserStart b }

theorem RunInv.after_parserFeed (h : RunInv s) (b : Byte) : RunInv (parserFeed b s).2 := by
  obtain ⟨hseen, hpend, hb2h, hh2b⟩ := parserFeed_keeps_queues b s
  exact h.of_queues_shrink (h.toMachineInv.after_parserFeed b) hseen (by simp [hpend]) (by simp [hb2h]) (by simp [hh2b])

theorem RunInv.after_popHead (h : RunInv s) (q : FifoId) : RunInv (popHead q s).2 := by
  have hinv := h.toMachineInv.after_popHead q
  obtain ⟨_, e⟩ | ⟨m, rest, hq, e⟩ := popHead_cases q s <;> rw [e] at hinv ⊢
  · exact h
  · have htail : rest ⊆ readQueue (fifoQueue q) s := by simp [hq]
    cases q with
    | b2h => exact h.of_queues_shrink hinv rfl (List.Subset.refl _) htail (List.Subset.refl _)
    | h2b => exact h.of_queues_shrink hinv rfl (List.Subset.refl _) (List.Subset.refl _) htail

theorem RunInv.after_pollAddress (h : RunInv s) (a : Byte) : RunInv (pollAddress a s) := by
  have hinv := h.toMachineInv.after_pollAddress a
  by_cases ha : a ∈ s.seen
  · rw [pollAddress_seen ha] at hinv ⊢
    exact h.of_queues_shrink hinv rfl List.eraseP_subset (List.Subset.refl _) (List.Subset.refl _)
  · rwa [pollAddress_unseen ha]

/-- A CRC-valid Message may be relayed to the host (10_state.md R29 (e)). -/
theorem RunInv.after_relay (h : RunInv s) {m : Message} (hv : verify m = true) (hr : s.b2h.length ≠ 100) :
    RunInv (writeQueue .b2h (s.b2h ++ [m]) s) :=
  { h with
    toMachineInv := h.toMachineInv.after_append (q := .b2h) hr m
    b2h_valid := List.forall_mem_append.mpr ⟨h.b2h_valid, List.forall_mem_singleton.mpr hv⟩ }

/-- An acceptable Message may wait in `h2b` (10_state.md R29 (d)). -/
theorem RunInv.after_accept (h : RunInv s) {m : Message} (hm : Acceptable m) (hr : s.h2b.length ≠ 100) :
    RunInv (writeQueue .h2b (s.h2b ++ [m]) s) :=
  { h with
    toMachineInv := h.toMachineInv.after_append (q := .h2b) hr m
    h2b_acceptable := List.forall_mem_append.mpr ⟨h.h2b_acceptable, List.forall_mem_singleton.mpr hm⟩ }

theorem RunInv.after_seenInsert (h : RunInv s) (a : Byte) : RunInv (seenInsert a s) := by
  have hinv := h.toMachineInv.after_seenInsert a
  have haddr : ∀ m ∈ s.pend, SeenOrFull m.address (seenInsert a s) := fun m hm =>
    SeenOrFull.after_seenInsert (h.pend_addressed m hm) a
  rw [seenInsert_eq] at hinv haddr ⊢
  exact { h with toMachineInv := hinv, pend_addressed := haddr }

/-- `ENQ` of an acceptable Message: the entry it appends has its address seen by the `SEENINS` that follows
(43_bus_relay.md R112). -/
theorem RunInv.after_enqWith (h : RunInv s) (k : Bool) {m : Message} (hm : Acceptable m) : RunInv (enqWith k m s) := by
  have hinv := h.toMachineInv.after_enqWith k m
  by_cases hr : s.pend.length = 100
  · have hraised := h.after_raise .enq (.queueFull .pend m)
    rw [enqWith_full hr]
    split
    · exact hraised.after_seenInsert _
    · exact hraised
  · rw [enqWith_room hr] at hinv ⊢
    have hnew := seenOrFull_seenInsert_self m.address { s with pend := s.pend ++ [m] }
    have hold : ∀ x ∈ s.pend, SeenOrFull x.address (seenInsert m.address { s with pend := s.pend ++ [m] }) :=
      fun x hx => SeenOrFull.after_seenInsert (s := { s with pend := s.pend ++ [m] }) (h.pend_addressed x hx) m.address
    rw [seenInsert_eq] at hinv hnew hold ⊢
    exact { h with
      toMachineInv := hinv
      pend_acceptable := List.forall_mem_append.mpr ⟨h.pend_acceptable, List.forall_mem_singleton.mpr hm⟩
      pend_addressed := List.forall_mem_append.mpr ⟨hold, List.forall_mem_singleton.mpr hnew⟩ }

theorem RunInv.after_busFrame (h : RunInv s) (m : Message) : RunInv (busFrame m s) := by
  have hact : ∀ u, RunInv u → RunInv (if m.type = Config.typePoll then pollAddress m.address u else u) := by
    intro u hu
    split
    · exact hu.after_pollAddress _
    · exact hu
  unfold busFrame
  obtain ⟨_, e⟩ | ⟨_, _, e⟩ | ⟨hv, hr, e⟩ := busFrameThen_cases m _ s <;> rw [e]
  · exact h.after_raise _ _
  · exact hact _ (h.after_raise _ _)
  · exact hact _ (h.after_relay hv hr)

theorem RunInv.after_rxWord (h : RunInv s) (w : Word9) : RunInv (rxWord w s) := by
  have hfed := h.after_parserFeed (wordByte w)
  obtain ⟨_, e⟩ | ⟨_, m, t, hm, e⟩ | ⟨_, _, e⟩ := rxWord_cases w s <;> rw [e]
  · exact h.after_parserStart _
  · rw [hm] at hfed
    exact hfed.after_busFrame m
  · exact hfed

theorem RunInv.after_hostSubmit (h : RunInv s) (m : Message) : RunInv (hostSubmit m s).2 := by
  unfold hostSubmit
  split
  next hm =>
    rw [submitAccepted_snd]
    obtain ⟨_, e⟩ | ⟨hr, e⟩ := insertOrRaise_cases .hsubmit .h2b m s <;> rw [e]
    · exact h.after_raise _ _
    · exact h.after_accept hm hr
  next => exact h

/-- `HDRAIN` hands `ENQ` a Message that waited in `h2b`, so an acceptable one. -/
theorem RunInv.after_hostDrain (h : RunInv s) : RunInv (hostDrain s) := by
  have hpop := h.after_popHead .h2b
  unfold hostDrain
  obtain ⟨_, e⟩ | ⟨m, rest, hq, e⟩ := popHead_cases .h2b s <;> rw [e] at hpop ⊢
  · exact h
  · have hm : m ∈ s.h2b := by
      rw [show s.h2b = m :: rest from hq]
      exact List.mem_cons_self
    exact hpop.after_enqWith _ (h.h2b_acceptable m hm)

theorem RunInv.after_hostPop (h : RunInv s) : RunInv (hostPop s).2 := by
  rw [hostPop_snd]
  exact h.after_popHead .b2h

theorem RunInv.after_external (h : RunInv s) {i : Instr} (hi : external i = true) :
    ∃ t, exec i s = .next t ∧ RunInv t := by
  obtain ⟨w, rfl⟩ | ⟨m, rfl⟩ | rfl | rfl := external_cases hi
  · exact ⟨_, exec_rxword w s, h.after_beginOp.after_rxWord w⟩
  · exact ⟨_, exec_hsubmit m s, (h.after_beginOp.after_hostSubmit m).after_returns _⟩
  · exact ⟨_, exec_hdrain s, h.after_beginOp.after_hostDrain⟩
  · exact ⟨_, exec_hpop s, h.after_beginOp.after_hostPop.after_returns _⟩

end RunInv

/-- Settles O47: the four operations admit only CRC-valid Messages to the queues they write, and `ENQ` marks the address
of what it appends. -/
theorem externalStepKeepsRunInv : Obligations.ExternalStepKeepsRunInv := by
  intro s t hs hext hstep
  obtain ⟨_, rfl⟩ | ⟨r, rest, i, hin, hd, he⟩ := step_cases hstep
  · exact hs
  · obtain ⟨u, hu, inv⟩ := (hs.after_takeRequest rest).after_external (hext r rest i hin hd)
    obtain rfl := Host.Outcome.next.inj (hu.symm.trans he)
    exact inv

/-! ## The registers of an idle parser -/

section Registers

variable (s : State) (pos : BitVec 9) (ty ad ln : Byte) (da : List Byte) (cr : Crc)

theorem beginOp_withRegisters :
    beginOp (withRegisters s pos ty ad ln da cr) = withRegisters (beginOp s) pos ty ad ln da cr := rfl

theorem returns_withRegisters (r : Ret) :
    returns r (withRegisters s pos ty ad ln da cr) = withRegisters (returns r s) pos ty ad ln da cr := rfl

@[simp] theorem readQueue_withRegisters (q : QueueId) :
    readQueue q (withRegisters s pos ty ad ln da cr) = readQueue q s := by
  cases q <;> rfl

theorem writeQueue_withRegisters (q : QueueId) (l : List Message) :
    writeQueue q l (withRegisters s pos ty ad ln da cr) = withRegisters (writeQueue q l s) pos ty ad ln da cr := by
  cases q <;> rfl

theorem popHead_withRegisters (q : FifoId) :
    popHead q (withRegisters s pos ty ad ln da cr) =
      ((popHead q s).1, withRegisters (popHead q s).2 pos ty ad ln da cr) := by
  simp only [popHead, readQueue_withRegisters, writeQueue_withRegisters]

theorem insertOrRaise_withRegisters (who : Op) (q : QueueId) (m : Message) :
    insertOrRaise who q m (withRegisters s pos ty ad ln da cr) =
      ((insertOrRaise who q m s).1, withRegisters (insertOrRaise who q m s).2 pos ty ad ln da cr) := by
  by_cases h : (readQueue q s).length = queueCap q
  · rw [insertOrRaise_full h, insertOrRaise_full (by rwa [readQueue_withRegisters])]
    rfl
  · rw [insertOrRaise_ok h, insertOrRaise_ok (by rwa [readQueue_withRegisters]), readQueue_withRegisters,
      writeQueue_withRegisters]

theorem seenInsert_withRegisters (a : Byte) :
    seenInsert a (withRegisters s pos ty ad ln da cr) = withRegisters (seenInsert a s) pos ty ad ln da cr := by
  simp only [seenInsert_eq, withRegisters]

theorem enqWith_withRegisters (k : Bool) (m : Message) :
    enqWith k m (withRegisters s pos ty ad ln da cr) = withRegisters (enqWith k m s) pos ty ad ln da cr := by
  simp only [enqWith, insertOrRaise_withRegisters]
  obtain ⟨_, e⟩ | ⟨_, e⟩ := insertOrRaise_cases .enq .pend m s <;> rw [e]
  · cases k with
    | true => exact seenInsert_withRegisters ..
    | false => rfl
  · exact seenInsert_withRegisters ..

theorem hostSubmit_withRegisters (m : Message) :
    hostSubmit m (withRegisters s pos ty ad ln da cr) =
      ((hostSubmit m s).1, withRegisters (hostSubmit m s).2 pos ty ad ln da cr) := by
  unfold hostSubmit submitAccepted
  rw [insertOrRaise_withRegisters]
  split
  · obtain ⟨_, e⟩ | ⟨_, e⟩ := insertOrRaise_cases .hsubmit .h2b m s <;> rw [e]
  · rfl

theorem hostDrain_withRegisters :
    hostDrain (withRegisters s pos ty ad ln da cr) = withRegisters (hostDrain s) pos ty ad ln da cr := by
  unfold hostDrain
  rw [popHead_withRegisters]
  obtain ⟨_, e⟩ | ⟨m, _, _, e⟩ := popHead_cases .h2b s <;> rw [e]
  exact enqWith_withRegisters ..

theorem hostPop_withRegisters :
    hostPop (withRegisters s pos ty ad ln da cr) =
      ((hostPop s).1, withRegisters (hostPop s).2 pos ty ad ln da cr) := by
  unfold hostPop
  rw [popHead_withRegisters]
  obtain ⟨_, e⟩ | ⟨_, _, _, e⟩ := popHead_cases .b2h s <;> rw [e]

/-- A marked word writes every register before anything reads it (41_parser.md R90, R94 (b)). -/
theorem rxWord_withRegisters_of_marked {w : Word9} (hw : wordMarker w = true) :
    rxWord w (withRegisters s pos ty ad ln da cr) = rxWord w s := by
  simp only [rxWord, hw, if_true]
  rfl

/-- An unmarked word in `Idle` is reported, and no register is read (60_exceptions.md R133). -/
theorem rxWord_of_unmarked_idle {w : Word9} (hw : wordMarker w = false) {u : State} (hu : u.pState = .idle) :
    rxWord w u = raise .feed (.frameOverrun (wordByte w)) u := by
  simp [rxWord, hw, parserFeed_idle hu]

theorem rxWord_withRegisters_of_idle (w : Word9) (hs : s.pState = .idle) :
    rxWord w (withRegisters s pos ty ad ln da cr) = rxWord w s ∨
    rxWord w (withRegisters s pos ty ad ln da cr) = withRegisters (rxWord w s) pos ty ad ln da cr := by
  cases hw : wordMarker w with
  | true => exact .inl (rxWord_withRegisters_of_marked s pos ty ad ln da cr hw)
  | false =>
    have hr : (withRegisters s pos ty ad ln da cr).pState = .idle := hs
    rw [rxWord_of_unmarked_idle hw hs, rxWord_of_unmarked_idle hw hr]
    exact .inr rfl

end Registers

/-- Settles O26: a marked word overwrites the registers, and everything else an idle block does commutes with replacing
them. -/
theorem idleRegistersAreNotRead : Obligations.IdleRegistersAreNotRead := by
  intro i s pos ty ad ln da cr hi hs
  obtain ⟨w, rfl⟩ | ⟨m, rfl⟩ | rfl | rfl := external_cases hi
  · refine ⟨_, exec_rxword w s, ?_⟩
    obtain e | e := rxWord_withRegisters_of_idle (beginOp s) pos ty ad ln da cr w hs
    · exact .inl (by rw [exec_rxword, beginOp_withRegisters, e])
    · exact .inr (by rw [exec_rxword, beginOp_withRegisters, e])
  · refine ⟨_, exec_hsubmit m s, .inr ?_⟩
    rw [exec_hsubmit, beginOp_withRegisters, hostSubmit_withRegisters, returns_withRegisters]
  · refine ⟨_, exec_hdrain s, .inr ?_⟩
    rw [exec_hdrain, beginOp_withRegisters, hostDrain_withRegisters]
  · refine ⟨_, exec_hpop s, .inr ?_⟩
    rw [exec_hpop, beginOp_withRegisters, hostPop_withRegisters, returns_withRegisters]

/-! ## Reset -/

/-- Settles O1: the fields of the reset state, read off one by one. -/
theorem resetLeavesTheSpecValues : Obligations.ResetLeavesTheSpecValues :=
  ⟨rfl, rfl, rfl, rfl, rfl, rfl, rfl, rfl, rfl, rfl, rfl, rfl, rfl⟩

/-- Everything bounded is empty after reset, the buffer is whole, and no frame is open. -/
theorem machineInv_reset : MachineInv State.reset where
  seen_bound := Nat.zero_le _
  seen_nodup := List.nodup_nil
  pend_bound := Nat.zero_le _
  b2h_bound := Nat.zero_le _
  h2b_bound := Nat.zero_le _
  parser := ⟨List.length_replicate, nofun⟩
  marker _ := rfl

theorem runInv_reset : RunInv State.reset where
  toMachineInv := machineInv_reset
  h2b_acceptable := List.forall_mem_nil _
  pend_acceptable := List.forall_mem_nil _
  b2h_valid := List.forall_mem_nil _
  pend_addressed := List.forall_mem_nil _

/-- Settles O3. -/
theorem resetMeetsInvariants : Obligations.ResetMeetsInvariants :=
  ⟨machineInv_reset, runInv_reset⟩

end Sys2Proof.Machine

/-! ## Memory and order (20_memory.md)

### One step, and one operation after another -/

namespace Sys2Proof.Machine

theorem step_of_inbox_nil {s : State} (h : s.inbox = []) : step s = .next s := by
  simp [step, h]

theorem step_of_decode_ok {s : State} {r : Request} {rest : List Request} {i : Instr} (h : s.inbox = r :: rest)
    (hd : decode r = .ok i) : step s = exec i (takeRequest rest s) := by
  simp [step, h, hd]

theorem step_of_decode_error {s : State} {r : Request} {rest : List Request} {e : DecodeError}
    (h : s.inbox = r :: rest) (hd : decode r = .error e) : step s = .refused (.undecodable e) := by
  simp [step, h, hd]

/-- Settles O4: the three things `step` can find in the inbox. -/
theorem stepRunsTheDecodedInstruction : Obligations.StepRunsTheDecodedInstruction :=
  ⟨fun _ _ _ _ h hd _ => step_of_decode_ok h hd, fun _ h => step_of_inbox_nil h,
    fun _ _ _ _ h hd => step_of_decode_error h hd⟩

/-- An operation that answers hands its state to the operations after it. -/
theorem execAll_cons {i : Instr} {s t : State} (h : exec i s = .next t) (is : List Instr) :
    execAll (i :: is) s = execAll is t := by
  simp [execAll, h]

theorem execAll_pair {i j : Instr} {s t u : State} (hi : exec i s = .next t) (hj : exec j t = .next u) :
    execAll [i, j] s = .next u := by
  rw [execAll_cons hi, execAll_cons hj]
  rfl

/-! ### A received word and the host's side -/

/-- `s` with the fields replaced that `HSUBMIT` writes beside the outcome (44_queue_bridge.md R121). -/
def withHostSide (l : List Message) (e : List ErrEntry) (s : State) : State :=
  { s with h2b := l, errLog := e }

/-- From `s`, `f` neither reads nor writes `h2b`, and on `err_log` it does no more than append, the same reports
whatever stands in the two. -/
def BusSide (f : State → State) (s : State) : Prop :=
  ∃ reports, ∀ l e, f (withHostSide l e s) = withHostSide l (e ++ reports) (f s)

theorem BusSide.of_commutes {f : State → State} {s : State}
    (h : ∀ l e, f (withHostSide l e s) = withHostSide l e (f s)) : BusSide f s :=
  ⟨[], fun l e => by rw [h, List.append_nil]⟩

theorem BusSide.comp {f g : State → State} {s : State} (hg : BusSide g (f s)) (hf : BusSide f s) :
    BusSide (fun t => g (f t)) s := by
  obtain ⟨first, hf⟩ := hf
  obtain ⟨second, hg⟩ := hg
  exact ⟨first ++ second, fun l e => by simp only [hf, hg, List.append_assoc]⟩

/-- What `f` does from `s` is all that counts. -/
theorem BusSide.congr {f g : State → State} {s : State} (hg : BusSide g s)
    (h : ∀ l e, f (withHostSide l e s) = g (withHostSide l e s)) : BusSide f s := by
  obtain ⟨reports, hg⟩ := hg
  have hs : f s = g s := h s.h2b s.errLog
  exact ⟨reports, fun l e => by rw [h, hg, hs]⟩

/-- The state `f` leaves has the `h2b` it started with, and `err_log` with the reports behind it. -/
theorem eq_withHostSide_self {f : State → State} {s : State} {reports : List ErrEntry}
    (h : ∀ l e, f (withHostSide l e s) = withHostSide l (e ++ reports) (f s)) :
    f s = withHostSide s.h2b (s.errLog ++ reports) (f s) :=
  h s.h2b s.errLog

theorem busSide_raise (who : Op) (k : Report) (s : State) : BusSide (raise who k) s :=
  ⟨[⟨who, k⟩], fun _ _ => rfl⟩

theorem busSide_parserStart (t : Byte) (s : State) : BusSide (parserStart t) s :=
  .of_commutes fun _ _ => rfl

@[simp] theorem withHostSide_pos (l : List Message) (e : List ErrEntry) (s : State) :
    (withHostSide l e s).pos = s.pos := rfl

@[simp] theorem withHostSide_mLen (l : List Message) (e : List ErrEntry) (s : State) :
    (withHostSide l e s).mLen = s.mLen := rfl

theorem feedAdvance_of_last {s : State} (h : 5 ≤ (s.pos + 1).toNat ∧ (s.pos + 1).toNat = 5 + s.mLen.toNat) :
    feedAdvance s = (.complete (parsedMessage s), { s with pos := s.pos + 1, pState := .idle }) :=
  if_pos h

theorem feedAdvance_of_not_last {s : State}
    (h : ¬ (5 ≤ (s.pos + 1).toNat ∧ (s.pos + 1).toNat = 5 + s.mLen.toNat)) :
    feedAdvance s = (.pending, { s with pos := s.pos + 1 }) :=
  if_neg h

theorem feedAdvance_withHostSide (l : List Message) (e : List ErrEntry) (s : State) :
    feedAdvance (withHostSide l e s) = ((feedAdvance s).1, withHostSide l e (feedAdvance s).2) := by
  by_cases h : 5 ≤ (s.pos + 1).toNat ∧ (s.pos + 1).toNat = 5 + s.mLen.toNat
  · rw [feedAdvance_of_last h, feedAdvance_of_last (s := withHostSide l e s) h]
    rfl
  · rw [feedAdvance_of_not_last h, feedAdvance_of_not_last (s := withHostSide l e s) h]
    rfl

theorem parserFeed_withHostSide_of_collecting {s : State} (h : s.pState = .collecting) (b : Byte) (l : List Message)
    (e : List ErrEntry) :
    parserFeed b (withHostSide l e s) = ((parserFeed b s).1, withHostSide l e (parserFeed b s).2) := by
  have hc : (withHostSide l e s).pState = .collecting := h
  simp only [parserFeed, feedCap, h, hc, not_dataCap_lt, if_false, withHostSide_pos, withHostSide_mLen]
  split_ifs
  · exact feedAdvance_withHostSide l e { s with pState := .collecting, mAddr := b }
  · exact feedAdvance_withHostSide l e { s with pState := .collecting, mLen := b }
  · exact feedAdvance_withHostSide l e { s with pState := .collecting, mData := s.mData.set (s.pos.toNat - 3) b }
  · exact feedAdvance_withHostSide l e { s with pState := .collecting, mCrc := setCrcHi s.mCrc b }
  · exact feedAdvance_withHostSide l e { s with pState := .collecting, mCrc := setCrcLo s.mCrc b }

/-- `FEED` answers the same on any host's side. -/
theorem parserFeed_fst_withHostSide (b : Byte) (l : List Message) (e : List ErrEntry) (s : State) :
    (parserFeed b (withHostSide l e s)).1 = (parserFeed b s).1 := by
  cases h : s.pState with
  | idle =>
    have hi : (withHostSide l e s).pState = .idle := h
    rw [parserFeed_idle h, parserFeed_idle hi]
  | collecting => rw [parserFeed_withHostSide_of_collecting h]

theorem busSide_parserFeed (b : Byte) (s : State) : BusSide (fun t => (parserFeed b t).2) s := by
  cases h : s.pState with
  | idle =>
    refine ⟨[⟨.feed, .frameOverrun b⟩], fun l e => ?_⟩
    have hi : (withHostSide l e s).pState = .idle := h
    simp only [parserFeed_idle h, parserFeed_idle hi]
    rfl
  | collecting => exact .of_commutes fun l e => by rw [parserFeed_withHostSide_of_collecting h]

theorem busSide_insert_b2h (who : Op) (m : Message) (s : State) :
    BusSide (fun t => (insertOrRaise who .b2h m t).2) s := by
  by_cases h : s.b2h.length = 100
  · refine ⟨[⟨who, .queueFull .b2h m⟩], fun l e => ?_⟩
    simp only [insertOrRaise_full (q := .b2h) (s := s) h, insertOrRaise_full (q := .b2h) (s := withHostSide l e s) h]
    rfl
  · refine .of_commutes fun l e => ?_
    rw [insertOrRaise_ok (q := .b2h) (s := s) h, insertOrRaise_ok (q := .b2h) (s := withHostSide l e s) h]
    rfl

theorem busSide_pollAddress (a : Byte) (s : State) : BusSide (pollAddress a) s := by
  refine .of_commutes fun l e => ?_
  by_cases h : a ∈ s.seen
  · rw [pollAddress_seen h, pollAddress_seen (s := withHostSide l e s) h]
    rfl
  · rw [pollAddress_unseen h, pollAddress_unseen (s := withHostSide l e s) h]

theorem busSide_busFrameThen (m : Message) {f : State → State} (hf : ∀ t, BusSide f t) (s : State) :
    BusSide (busFrameThen m f) s := by
  unfold busFrameThen
  split
  · exact (hf _).comp (busSide_insert_b2h .busframe m s)
  · exact busSide_raise ..

theorem busSide_busFrame (m : Message) (s : State) : BusSide (busFrame m) s := by
  refine busSide_busFrameThen m (fun t => ?_) s
  split
  · exact busSide_pollAddress m.address t
  · exact .of_commutes fun _ _ => rfl

theorem rxWord_of_marked {w : Word9} (hw : wordMarker w = true) (s : State) :
    rxWord w s = parserStart (wordByte w) s := by
  simp [rxWord, hw]

theorem rxWord_of_complete {w : Word9} (hw : wordMarker w = false) {s : State} {m : Message}
    (h : (parserFeed (wordByte w) s).1 = .complete m) : rxWord w s = busFrame m (parserFeed (wordByte w) s).2 := by
  obtain ⟨hm, _⟩ | ⟨_, n, t, hn, e⟩ | ⟨_, hne, _⟩ := rxWord_cases w s
  · simp [hw] at hm
  · rw [hn] at h ⊢
    rw [e, FeedResult.complete.inj h]
  · exact absurd h (hne m)

theorem rxWord_of_not_complete {w : Word9} (hw : wordMarker w = false) {s : State}
    (h : ∀ m, (parserFeed (wordByte w) s).1 ≠ .complete m) : rxWord w s = (parserFeed (wordByte w) s).2 := by
  obtain ⟨hm, _⟩ | ⟨_, n, t, hn, _⟩ | ⟨_, _, e⟩ := rxWord_cases w s
  · simp [hw] at hm
  · exact absurd (congrArg Prod.fst hn) (h n)
  · exact e

/-- A received word, `BUSFRAME` and `POLL` included, leaves the host's side alone (20_memory.md R58). -/
theorem busSide_rxWord (w : Word9) (s : State) : BusSide (rxWord w) s := by
  have hfed := busSide_parserFeed (wordByte w) s
  cases hw : wordMarker w with
  | true => exact (busSide_parserStart (wordByte w) s).congr fun l e => rxWord_of_marked hw _
  | false =>
    by_cases hc : ∃ m, (parserFeed (wordByte w) s).1 = .complete m
    · obtain ⟨m, hm⟩ := hc
      exact ((busSide_busFrame m _).comp hfed).congr fun l e =>
        rxWord_of_complete hw ((parserFeed_fst_withHostSide ..).trans hm)
    · exact hfed.congr fun l e =>
        rxWord_of_not_complete hw fun m hm => hc ⟨m, (parserFeed_fst_withHostSide ..).symm.trans hm⟩

/-- Settles O53: `h2b` is on the host's side, and `err_log` stays as it is beside it. -/
theorem rxwordIgnoresHostQueue : Obligations.RxwordIgnoresHostQueue := by
  intro w s l
  obtain ⟨reports, h⟩ := busSide_rxWord w (beginOp s)
  refine ⟨_, exec_rxword w s, ?_⟩
  have hself := eq_withHostSide_self h
  calc exec (.rxword w) { s with h2b := l }
      = .next (rxWord w (withHostSide l s.errLog (beginOp s))) := rfl
    _ = .next (withHostSide l (s.errLog ++ reports) (rxWord w (beginOp s))) := by rw [h]
    _ = .next { rxWord w (beginOp s) with h2b := l } := by rw [hself]; rfl

/-- What `HSUBMIT` writes beside the outcome follows from the Message and what waits in `h2b`. -/
theorem hostSubmit_snd_of_h2b (m : Message) (q : List Message) :
    ∃ l reports, ∀ s, s.h2b = q →
      ∃ o, (hostSubmit m s).2 = { withHostSide l (s.errLog ++ reports) s with outcome := o } := by
  by_cases hm : verify m ∧ m.type = Config.typeData
  · by_cases hq : q.length = 100
    · refine ⟨q, [⟨.hsubmit, .queueFull .h2b m⟩], ?_⟩
      rintro s rfl
      refine ⟨(raise .hsubmit (.queueFull .h2b m) s).outcome, ?_⟩
      rw [hostSubmit, if_pos hm, submitAccepted_snd, insertOrRaise_full (q := .h2b) hq]
      rfl
    · refine ⟨q ++ [m], [], ?_⟩
      rintro s rfl
      refine ⟨s.outcome, ?_⟩
      rw [hostSubmit, if_pos hm, submitAccepted_snd, insertOrRaise_ok (q := .h2b) hq, List.append_nil]
      rfl
  · refine ⟨q, [], ?_⟩
    rintro s rfl
    exact ⟨s.outcome, by rw [hostSubmit, if_neg hm, List.append_nil]; rfl⟩

/-- `HSUBMIT` writes the host's side only, which `RXWORD` leaves alone: each appends its reports after those of the one
before it. -/
theorem hsubmit_rxword_commute (m : Message) (w : Word9) (s : State) :
    ∃ t u, execAll [.hsubmit m, .rxword w] s = .next t ∧ execAll [.rxword w, .hsubmit m] s = .next u ∧
      t = { u with errLog := t.errLog, outcome := t.outcome } ∧ t.errLog.Perm u.errLog := by
  obtain ⟨busReports, hbus⟩ := busSide_rxWord w (beginOp s)
  obtain ⟨l, hostReports, hhost⟩ := hostSubmit_snd_of_h2b m s.h2b
  have hself := eq_withHostSide_self hbus
  have hqueue : (rxWord w (beginOp s)).h2b = s.h2b := (congrArg State.h2b hself :)
  obtain ⟨o₁, h₁⟩ := hhost (beginOp s) rfl
  obtain ⟨o₂, h₂⟩ := hhost (beginOp (rxWord w (beginOp s))) hqueue
  have hfirst : beginOp (returns (hostSubmit m (beginOp s)).1 (hostSubmit m (beginOp s)).2) =
      withHostSide l (s.errLog ++ hostReports) (beginOp s) := by rw [h₁]; rfl
  refine ⟨_, _, execAll_pair (exec_hsubmit m s) (exec_rxword w _),
    execAll_pair (exec_rxword w s) (exec_hsubmit m _), ?_, ?_⟩
  · rw [hfirst, hbus, h₂]
    rfl
  · rw [hfirst, hbus, h₂]
    have herr : (rxWord w (beginOp s)).errLog = s.errLog ++ busReports := (congrArg State.errLog hself :)
    change (s.errLog ++ hostReports ++ busReports).Perm ((rxWord w (beginOp s)).errLog ++ hostReports)
    rw [herr, List.append_assoc, List.append_assoc]
    exact List.perm_append_comm.append_left _

/-! ### The two ends of the bridge -/

theorem hostPop_cons {s : State} {m : Message} {rest : List Message} (h : s.b2h = m :: rest) :
    hostPop s = (.message m, { s with b2h := rest }) := by
  rw [hostPop, popHead_cons (q := .b2h) h]
  rfl

theorem popList_snd (l : List Message) : (popList l).2 = l.tail := by
  cases l <;> rfl

/-- `HPOP` removes the head of `b2h`, if there is one, and writes no other field but the outcome. -/
theorem hostPop_snd_eq_tail (s : State) : (hostPop s).2 = writeQueue .b2h s.b2h.tail s := by
  rw [hostPop_snd, popHead, popList_snd]
  rfl

theorem hostDrain_nil {s : State} (h : s.h2b = []) : hostDrain s = s := by
  rw [hostDrain, popHead_nil (q := .h2b) h]

theorem hostDrain_cons {s : State} {m : Message} {rest : List Message} (h : s.h2b = m :: rest) :
    hostDrain s = enqueue m { s with h2b := rest } := by
  rw [hostDrain, popHead_cons (q := .h2b) h]
  rfl

theorem seenInsert_writeQueue (a : Byte) (q : QueueId) (l : List Message) (s : State) :
    seenInsert a (writeQueue q l s) = writeQueue q l (seenInsert a s) := by
  cases q <;> simp only [seenInsert_eq, writeQueue]

theorem enqWith_writeQueue_b2h (k : Bool) (m : Message) (l : List Message) (s : State) :
    enqWith k m (writeQueue .b2h l s) = writeQueue .b2h l (enqWith k m s) := by
  by_cases h : s.pend.length = 100
  · rw [enqWith_full h, enqWith_full (s := writeQueue .b2h l s) h]
    cases k with
    | true => exact seenInsert_writeQueue m.address .b2h l (raise .enq (.queueFull .pend m) s)
    | false => rfl
  · rw [enqWith_room h, enqWith_room (s := writeQueue .b2h l s) h]
    exact seenInsert_writeQueue m.address .b2h l { s with pend := s.pend ++ [m] }

/-- `HDRAIN` neither reads nor writes `b2h`. -/
theorem hostDrain_writeQueue_b2h (l : List Message) (s : State) :
    hostDrain (writeQueue .b2h l s) = writeQueue .b2h l (hostDrain s) := by
  cases h : s.h2b with
  | nil => rw [hostDrain_nil h, hostDrain_nil (s := writeQueue .b2h l s) h]
  | cons m rest =>
    rw [hostDrain_cons h, hostDrain_cons (s := writeQueue .b2h l s) h]
    exact enqWith_writeQueue_b2h Config.seenOnFull m l { s with h2b := rest }

theorem hostDrain_b2h (s : State) : (hostDrain s).b2h = s.b2h :=
  (congrArg State.b2h (hostDrain_writeQueue_b2h s.b2h s) :)

/-- `HPOP` works on `b2h` alone, which `HDRAIN` does not use. -/
theorem hpop_hdrain_commute (s : State) :
    ∃ t u, execAll [.hpop, .hdrain] s = .next t ∧ execAll [.hdrain, .hpop] s = .next u ∧
      t = { u with outcome := t.outcome } := by
  refine ⟨_, _, execAll_pair (exec_hpop s) (exec_hdrain _), execAll_pair (exec_hdrain s) (exec_hpop _), ?_⟩
  have hfirst : beginOp (returns (hostPop (beginOp s)).1 (hostPop (beginOp s)).2) =
      writeQueue .b2h s.b2h.tail (beginOp s) := by rw [hostPop_snd_eq_tail]; rfl
  have hkept : (beginOp (hostDrain (beginOp s))).b2h = s.b2h := hostDrain_b2h (beginOp s)
  rw [hfirst, hostDrain_writeQueue_b2h, hostPop_snd_eq_tail, hkept]
  rfl

/-- Settles O54: in each pair one operation works on fields the other does not use, traces apart. -/
theorem contextsCommute : Obligations.ContextsCommute :=
  ⟨hsubmit_rxword_commute, hpop_hdrain_commute⟩

/-! ### Order through the FIFOs and the pending queue -/

/-- `HDRAIN` with room in `pend` moves the head of `h2b` to the end of `pend`. -/
theorem hostDrain_moves_head {s : State} {m : Message} {rest : List Message} (h : s.h2b = m :: rest)
    (hroom : s.pend.length ≠ 100) :
    (hostDrain s).pend = s.pend ++ [m] ∧ (hostDrain s).h2b = rest := by
  rw [hostDrain_cons h, enqueue, enqWith_room (s := { s with h2b := rest }) hroom, seenInsert_eq]
  exact ⟨rfl, rfl⟩

theorem execAll_hdrain_moves_first (n : Nat) (s : State) (hn : n ≤ s.h2b.length) (hroom : s.pend.length + n ≤ 100) :
    ∃ t, execAll (List.replicate n .hdrain) s = .next t ∧
      t.pend = s.pend ++ s.h2b.take n ∧ t.h2b = s.h2b.drop n := by
  induction n generalizing s with
  | zero => exact ⟨s, rfl, by simp, rfl⟩
  | succ n ih =>
    obtain ⟨m, rest, hq⟩ := List.exists_cons_of_length_pos (Nat.zero_lt_of_lt hn)
    obtain ⟨hpend, hh2b⟩ := hostDrain_moves_head (s := beginOp s) hq
      (by simp only [beginOp_pend]; omega)
    rw [beginOp_pend] at hpend
    obtain ⟨t, ht, htpend, hth2b⟩ := ih (hostDrain (beginOp s))
      (by rw [hh2b]; simpa [hq] using hn)
      (by rw [hpend, List.length_append, List.length_singleton]; omega)
    refine ⟨t, ?_, ?_, ?_⟩
    · rw [List.replicate_succ, execAll_cons (exec_hdrain s), ht]
    · rw [htpend, hpend, hh2b, hq, List.take_succ_cons, List.append_assoc, List.singleton_append]
    · rw [hth2b, hh2b, hq, List.drop_succ_cons]

theorem exec_hpop_cons {s : State} {m : Message} {rest : List Message} (h : s.b2h = m :: rest) :
    exec .hpop s = .next { s with b2h := rest, outcome := ⟨[], [], .message m⟩ } := by
  rw [exec_hpop, hostPop_cons (s := beginOp s) h]
  rfl

theorem execAll_hpop_returns_nth (n : Nat) (s : State) (m : Message) (h : s.b2h[n]? = some m) :
    ∃ t, execAll (List.replicate (n + 1) .hpop) s = .next t ∧
      t.b2h = s.b2h.drop (n + 1) ∧ t.outcome.ret = .message m := by
  induction n generalizing s with
  | zero =>
    obtain ⟨rest, hq⟩ := List.head?_eq_some_iff.mp (List.head?_eq_getElem? ▸ h)
    exact ⟨_, execAll_cons (exec_hpop_cons hq) [], by rw [hq]; rfl, rfl⟩
  | succ n ih =>
    obtain ⟨hlt, -⟩ := List.getElem?_eq_some_iff.mp h
    obtain ⟨x, rest, hq⟩ := List.exists_cons_of_length_pos (Nat.zero_lt_of_lt hlt)
    obtain ⟨t, ht, hb2h, hret⟩ := ih { s with b2h := rest, outcome := ⟨[], [], .message x⟩ }
      (by simpa [hq] using h)
    refine ⟨t, ?_, ?_, hret⟩
    · rw [List.replicate_succ, execAll_cons (exec_hpop_cons hq), ht]
    · rw [hb2h, hq, List.drop_succ_cons]

/-- Settles O57: by induction on the number of operations, each of which takes the head of its FIFO. -/
theorem bridgeFifosKeepOrder : Obligations.BridgeFifosKeepOrder :=
  ⟨execAll_hdrain_moves_first, execAll_hpop_returns_nth⟩

/-- Taking the first entry that passes a test takes the head of those that pass. -/
theorem filter_eraseP_self {α : Type} (p : α → Bool) (l : List α) : (l.eraseP p).filter p = (l.filter p).tail := by
  induction l with
  | nil => rfl
  | cons x l ih => cases h : p x <;> simp [h, ih]

/-- Taking the first entry that passes a test keeps those that fail, in order. -/
theorem filter_not_eraseP {α : Type} (p : α → Bool) (l : List α) :
    (l.eraseP p).filter (fun x => !p x) = l.filter (fun x => !p x) := by
  induction l with
  | nil => rfl
  | cons x l ih => cases h : p x <;> simp [h, ih]

/-- Settles O58: the entry `PENDTAKE` takes is the head of the entries for the address. -/
theorem pollsKeepOrderPerAddress : Obligations.PollsKeepOrderPerAddress := by
  intro a s ha
  refine ⟨pollAddress a (beginOp s), rfl, ?_⟩
  rw [pollAddress_seen (s := beginOp s) ha]
  refine ⟨?_, filter_eraseP_self _ s.pend, filter_not_eraseP _ s.pend⟩
  rw [List.head?_filter]
  rfl

end Sys2Proof.Machine

/-! ## The encodings (30_encoding.md)

### Frames as operands -/

namespace Sys2Proof.Machine

/-- 40_codec.md R86 (a), and R83: a frame decodes to the Message it was made of, whatever follows it. -/
theorem decodeFrame_encodeFrame_append (m : Message) (more : List Byte) :
    decodeFrame (encodeFrame m ++ more) = some m := by
  have hd : m.data.length = m.length.toNat := m.wf
  rw [encodeFrame_eq]
  simp only [List.cons_append, List.append_assoc, List.nil_append, decodeFrame]
  rw [dif_pos (by simp only [List.length_append, List.length_cons, hd]; omega)]
  refine congrArg some (message_ext rfl rfl rfl ?_ ?_)
  · exact List.take_left' hd
  · simp [← hd, List.getD_eq_getElem?_getD]

/-- 40_codec.md R86 (b): what decodes begins with the frame of the Message it decodes to. -/
theorem eq_encodeFrame_append_of_decodeFrame {bs : List Byte} {m : Message} (h : decodeFrame bs = some m) :
    bs = encodeFrame m ++ bs.drop (5 + m.length.toNat) := by
  match bs with
  | t :: a :: l :: rest =>
    simp only [decodeFrame] at h
    split at h
    next hlen =>
      obtain rfl := Option.some.inj h
      have hhi : l.toNat < rest.length := by omega
      have hlo : l.toNat + 1 < rest.length := by omega
      have hdrop : 5 + l.toNat = l.toNat + 1 + 1 + 1 + 1 + 1 := by omega
      simp [encodeFrame_eq, hdrop, hhi, hlo]
    next => cases h
  | [] | [_] | [_, _] => cases h

end Sys2Proof.Machine

namespace Sys2Proof

open Machine

theorem takeMessage_encodeFrame (m : Message) (rest : List Byte) :
    takeMessage (encodeFrame m ++ rest) = .ok (m, rest) := by
  simp only [takeMessage, decodeFrame_encodeFrame_append, List.drop_left' (encodeFrame_length m)]

theorem takeMessage_ok {bs rest : List Byte} {m : Message} (h : takeMessage bs = .ok (m, rest)) :
    bs = encodeFrame m ++ rest := by
  unfold takeMessage at h
  split at h
  next n hn =>
    obtain ⟨rfl, rfl⟩ := Prod.mk.inj (Except.ok.inj h)
    exact eq_encodeFrame_append_of_decodeFrame hn
  next => cases h

/-! ### Readers and writers of operands -/

/-- The reader `take` accepts, with no byte left, exactly what `write` writes, and reads it back. -/
def Reads {α : Type} (take : List Byte → Parsed α) (write : α → List Byte) : Prop :=
  ∀ bs a, take bs = .ok (a, []) ↔ bs = write a

theorem reads_byte : Reads takeByte (fun b => [b]) :=
  fun _ _ => ⟨takeByte_ok, fun h => h ▸ rfl⟩

theorem reads_list : Reads takeList id :=
  fun _ l => ⟨fun h => (takeList_ok h).trans l.append_nil, fun h => h ▸ rfl⟩

theorem reads_word : Reads takeWord wordBytes :=
  fun _ w => ⟨takeWord_ok, fun h => h ▸ takeWord_wordBytes w []⟩

theorem reads_fifo : Reads takeFifo (fun q => [fifoByte q]) :=
  fun _ q => ⟨takeFifo_ok, fun h => h ▸ takeFifo_fifoByte q []⟩

theorem reads_message : Reads takeMessage encodeFrame :=
  fun _ m => ⟨fun h => (takeMessage_ok h).trans (List.append_nil _),
    fun h => by simpa [h] using takeMessage_encodeFrame m []⟩

section Reads

variable {α : Type} {take : List Byte → Parsed α} {write : α → List Byte}

theorem Reads.build_write (h : Reads take write) (f : α → Instr) (a : α) :
    build (take (write a)) f = .ok (f a, []) := by
  rw [(h _ a).mpr rfl]
  rfl

theorem Reads.of_build_ok (h : Reads take write) {f : α → Instr} {bs : List Byte} {i : Instr}
    (hb : build (take bs) f = .ok (i, [])) : ∃ a, bs = write a ∧ i = f a := by
  obtain ⟨a, ha, rfl⟩ := build_ok hb
  exact ⟨a, (h bs a).mp ha, rfl⟩

end Reads

/-- The operands of `TXFRAME`, read and written. -/
theorem parseTxframe_ok_iff {bs : List Byte} {i : Instr} :
    parseTxframe bs = .ok (i, []) ↔ ∃ f0 f1 rest, bs = f0 :: f1 :: rest ∧ i = .txframe f0 f1 rest := by
  constructor
  · intro h
    match bs with
    | f0 :: f1 :: rest =>
      obtain ⟨_, rfl, rfl⟩ := reads_list.of_build_ok h
      exact ⟨f0, f1, _, rfl, rfl⟩
    | [] | [_] => cases h
  · rintro ⟨f0, f1, rest, rfl, rfl⟩
    rfl

/-- The operands of `TRYINSERT`, read and written. -/
theorem parseTryinsert_ok_iff {bs : List Byte} {i : Instr} :
    parseTryinsert bs = .ok (i, []) ↔ ∃ q m, bs = queueByte q :: encodeFrame m ∧ i = .tryinsert q m := by
  constructor
  · intro h
    unfold parseTryinsert at h
    split at h
    next q rest hq =>
      obtain ⟨m, rfl, rfl⟩ := reads_message.of_build_ok h
      exact ⟨q, m, takeQueue_ok hq, rfl⟩
    next => cases h
  · rintro ⟨q, m, rfl, rfl⟩
    simp only [parseTryinsert, takeQueue_queueByte]
    exact reads_message.build_write (.tryinsert q) m

/-! ### The three formats -/

/-- A request decodes when its bytes hold one instruction and nothing more. -/
theorem decode_ok_iff {r : Request} {i : Instr} : decode r = .ok i ↔ parse r.fmt r.bytes = .ok (i, []) := by
  unfold decode
  rcases parse r.fmt r.bytes with e | ⟨j, _ | _⟩ <;> simp

theorem decode_opsel (op : Op) (bs : List Byte) (i : Instr) :
    decode ⟨.opsel, opCode op :: bs⟩ = .ok i ↔ parseOperands op bs = .ok (i, []) := by
  simp only [decode_ok_iff, parse, opOfCode_opCode]

/-- A request in the format `OPSEL` that decodes starts with the code of an operation. -/
theorem exists_opCode_of_decode_opsel {bytes : List Byte} {i : Instr} (h : decode ⟨.opsel, bytes⟩ = .ok i) :
    ∃ op bs, bytes = opCode op :: bs := by
  rw [decode_ok_iff] at h
  match bytes with
  | [] => cases h
  | code :: bs =>
    cases hop : opOfCode code with
    | ok op => exact ⟨op, bs, by rw [opCode_of_opOfCode hop]⟩
    | error e => simp [parse, hop] at h

theorem decode_rxw_iff {bytes : List Byte} {i : Instr} :
    decode ⟨.rxw, bytes⟩ = .ok i ↔ ∃ w, bytes = wordBytes w ∧ i = rxInstr w := by
  rw [decode_ok_iff]
  constructor
  · exact reads_word.of_build_ok
  · rintro ⟨w, rfl, rfl⟩
    exact reads_word.build_write rxInstr w

theorem decode_typeByte_iff {src : Origin} {bytes : List Byte} {i : Instr} :
    decode ⟨.typeByte src, bytes⟩ = .ok i ↔ ∃ m, bytes = encodeFrame m ∧ i = typeInstr src m := by
  rw [decode_ok_iff]
  constructor
  · exact reads_message.of_build_ok
  · rintro ⟨m, rfl, rfl⟩
    exact reads_message.build_write (typeInstr src) m

/-! ### The rows of a received word and of a type byte -/

theorem rxInstr_marked (b : Byte) : rxInstr (mkWord true b) = .start b := by
  simp [rxInstr]

theorem rxInstr_unmarked (b : Byte) : rxInstr (mkWord false b) = .feed b := by
  simp [rxInstr]

/-- A word's marker and byte choose its row (30_encoding.md R63). -/
theorem rxInstr_cases (w : Word9) :
    (∃ b, w = mkWord true b ∧ rxInstr w = .start b) ∨ (∃ b, w = mkWord false b ∧ rxInstr w = .feed b) := by
  have hw := (mkWord_marker_byte w).symm
  cases hm : wordMarker w <;> rw [hm] at hw
  · exact .inr ⟨_, hw, by rw [hw, rxInstr_unmarked, ← hw]⟩
  · exact .inl ⟨_, hw, by rw [hw, rxInstr_marked, ← hw]⟩

/-- A row of the type-byte dispatch takes the frames of its own type (30_encoding.md R69). -/
theorem typeInstr_poll {m : Message} (h : m.type = Config.typePoll) (src : Origin) : typeInstr src m = .tPoll src m :=
  if_pos h

theorem typeInstr_data {m : Message} (h : m.type = Config.typeData) (src : Origin) : typeInstr src m = .tData src m := by
  simp [typeInstr, h]

theorem typeInstr_other {m : Message} (hp : m.type ≠ Config.typePoll) (hd : m.type ≠ Config.typeData) (src : Origin) :
    typeInstr src m = .tOther src m :=
  (if_neg hp).trans (if_neg hd)

theorem wellFormed_tPoll_iff {src : Origin} {m : Message} :
    (Instr.tPoll src m).wellFormed = true ↔ m.type = Config.typePoll :=
  beq_iff_eq

theorem wellFormed_tData_iff {src : Origin} {m : Message} :
    (Instr.tData src m).wellFormed = true ↔ m.type = Config.typeData :=
  beq_iff_eq

theorem wellFormed_tOther_iff {src : Origin} {m : Message} :
    (Instr.tOther src m).wellFormed = true ↔ m.type ≠ Config.typePoll ∧ m.type ≠ Config.typeData := by
  simp [Instr.wellFormed]

/-- The row a frame selects is well-formed, and its request is the frame. -/
theorem typeInstr_wellFormed_and_encode (src : Origin) (m : Message) :
    (typeInstr src m).wellFormed = true ∧ encode (typeInstr src m) = ⟨.typeByte src, encodeFrame m⟩ := by
  by_cases hp : m.type = Config.typePoll
  · rw [typeInstr_poll hp]
    exact ⟨wellFormed_tPoll_iff.mpr hp, rfl⟩
  · by_cases hd : m.type = Config.typeData
    · rw [typeInstr_data hd]
      exact ⟨wellFormed_tData_iff.mpr hd, rfl⟩
    · rw [typeInstr_other hp hd]
      exact ⟨wellFormed_tOther_iff.mpr ⟨hp, hd⟩, rfl⟩

/-! ### Encode and decode are inverse -/

section Reads

variable {α : Type} {take : List Byte → Parsed α} {write : α → List Byte} {op : Op} {f : α → Instr}

/-- An operation whose operand `take` reads is decoded from its code and what `write` writes. -/
theorem Reads.decode_opsel (h : Reads take write) (hop : ∀ bs, parseOperands op bs = build (take bs) f) (a : α) :
    decode ⟨.opsel, opCode op :: write a⟩ = .ok (f a) :=
  (Sys2Proof.decode_opsel op _ _).mpr ((hop _).trans (h.build_write f a))

/-- What an operation is decoded from is what its operand is written as. -/
theorem Reads.encode_of_parse (h : Reads take write) (hf : ∀ a, encode (f a) = ⟨.opsel, opCode op :: write a⟩)
    {bs : List Byte} {i : Instr} (hp : build (take bs) f = .ok (i, [])) : encode i = ⟨.opsel, opCode op :: bs⟩ := by
  obtain ⟨a, rfl, rfl⟩ := h.of_build_ok hp
  exact hf a

end Reads

/-- Settles O7: row by row, the reader of the operand reads back what the encoder wrote. -/
theorem decodeInvertsEncode : Obligations.DecodeInvertsEncode
  | .crc16 l, _ => reads_list.decode_opsel (op := .crc16) (fun _ => rfl) l
  | .encode m, _ => reads_message.decode_opsel (op := .encode) (fun _ => rfl) m
  | .decode l, _ => reads_list.decode_opsel (op := .decode) (fun _ => rfl) l
  | .computecrc m, _ => reads_message.decode_opsel (op := .computecrc) (fun _ => rfl) m
  | .verify m, _ => reads_message.decode_opsel (op := .verify) (fun _ => rfl) m
  | .start t, _ => decode_rxw_iff.mpr ⟨_, rfl, (rxInstr_marked t).symm⟩
  | .feed b, _ => decode_rxw_iff.mpr ⟨_, rfl, (rxInstr_unmarked b).symm⟩
  | .rxword w, _ => reads_word.decode_opsel (op := .rxword) (fun _ => rfl) w
  | .txframe f0 f1 rest, _ => (decode_opsel .txframe _ _).mpr (parseTxframe_ok_iff.mpr ⟨f0, f1, rest, rfl, rfl⟩)
  | .busframe m, _ => reads_message.decode_opsel (op := .busframe) (fun _ => rfl) m
  | .poll a, _ => reads_byte.decode_opsel (op := .poll) (fun _ => rfl) a
  | .enq m, _ => reads_message.decode_opsel (op := .enq) (fun _ => rfl) m
  | .seenins a, _ => reads_byte.decode_opsel (op := .seenins) (fun _ => rfl) a
  | .defresp a, _ => reads_byte.decode_opsel (op := .defresp) (fun _ => rfl) a
  | .pendtake a, _ => reads_byte.decode_opsel (op := .pendtake) (fun _ => rfl) a
  | .tryinsert q m, _ => (decode_opsel .tryinsert _ _).mpr (parseTryinsert_ok_iff.mpr ⟨q, m, rfl, rfl⟩)
  | .pophead q, _ => reads_fifo.decode_opsel (op := .pophead) (fun _ => rfl) q
  | .hsubmit m, _ => reads_message.decode_opsel (op := .hsubmit) (fun _ => rfl) m
  | .hdrain, _ => (decode_opsel .hdrain _ _).mpr rfl
  | .hpop, _ => (decode_opsel .hpop _ _).mpr rfl
  | .hexline l, _ => reads_list.decode_opsel (op := .hexline) (fun _ => rfl) l
  | .tPoll src _, h => decode_typeByte_iff.mpr ⟨_, rfl, (typeInstr_poll (wellFormed_tPoll_iff.mp h) src).symm⟩
  | .tData src _, h => decode_typeByte_iff.mpr ⟨_, rfl, (typeInstr_data (wellFormed_tData_iff.mp h) src).symm⟩
  | .tOther src _, h =>
    have ⟨hp, hd⟩ := wellFormed_tOther_iff.mp h
    decode_typeByte_iff.mpr ⟨_, rfl, (typeInstr_other hp hd src).symm⟩

/-- Row by row, an operation other than `START` and `FEED` was decoded from what the encoder writes. -/
theorem encode_of_parseOperands {op : Op} {bs : List Byte} {i : Instr} (h : parseOperands op bs = .ok (i, []))
    (hs : op ≠ .start) (hf : op ≠ .feed) : encode i = ⟨.opsel, opCode op :: bs⟩ := by
  cases op with
  | start => exact absurd rfl hs
  | feed => exact absurd rfl hf
  | crc16 | decode | hexline => exact reads_list.encode_of_parse (fun _ => rfl) h
  | encode | computecrc | verify | busframe | enq | hsubmit => exact reads_message.encode_of_parse (fun _ => rfl) h
  | poll | seenins | defresp | pendtake => exact reads_byte.encode_of_parse (fun _ => rfl) h
  | rxword => exact reads_word.encode_of_parse (fun _ => rfl) h
  | pophead => exact reads_fifo.encode_of_parse (fun _ => rfl) h
  | txframe =>
    obtain ⟨f0, f1, rest, rfl, rfl⟩ := parseTxframe_ok_iff.mp h
    rfl
  | tryinsert =>
    obtain ⟨q, m, rfl, rfl⟩ := parseTryinsert_ok_iff.mp h
    rfl
  | hdrain | hpop =>
    obtain ⟨rfl, rfl⟩ := Prod.mk.inj (Except.ok.inj h)
    rfl

/-- Only the type-byte rows can be ill-formed, and no operation-select code gives one. -/
theorem wellFormed_of_parseOperands {op : Op} {bs : List Byte} {i : Instr} (h : parseOperands op bs = .ok (i, [])) :
    i.wellFormed = true := by
  cases op with
  | txframe =>
    obtain ⟨_, _, _, _, rfl⟩ := parseTxframe_ok_iff.mp h
    rfl
  | tryinsert =>
    obtain ⟨_, _, _, rfl⟩ := parseTryinsert_ok_iff.mp h
    rfl
  | hdrain | hpop =>
    obtain ⟨rfl, _⟩ := Prod.mk.inj (Except.ok.inj h)
    rfl
  | crc16 | decode | hexline =>
    obtain ⟨_, _, rfl⟩ := reads_list.of_build_ok h
    rfl
  | _ =>
    obtain ⟨_, _, rfl⟩ := build_ok h
    rfl

/-- Settles O8: in each of the three formats, what decodes is what the encoder writes, but for the operation-select codes
of `START` and `FEED`. -/
theorem encodeInvertsDecode : Obligations.EncodeInvertsDecode := by
  rintro ⟨fmt, bytes⟩ i h
  cases fmt with
  | rxw =>
    obtain ⟨w, rfl, rfl⟩ := decode_rxw_iff.mp h
    obtain ⟨b, rfl, e⟩ | ⟨b, rfl, e⟩ := rxInstr_cases w <;> exact e ▸ ⟨rfl, fun _ => rfl⟩
  | typeByte src =>
    obtain ⟨m, rfl, rfl⟩ := decode_typeByte_iff.mp h
    obtain ⟨hwf, henc⟩ := typeInstr_wellFormed_and_encode src m
    exact ⟨hwf, fun _ => henc⟩
  | opsel =>
    obtain ⟨op, bs, rfl⟩ := exists_opCode_of_decode_opsel h
    have hp := (decode_opsel op bs i).mp h
    refine ⟨wellFormed_of_parseOperands hp, fun hcode => ?_⟩
    obtain ⟨hstart, hfeed⟩ := hcode rfl
    refine encode_of_parseOperands hp ?_ ?_
    · rintro rfl
      exact hstart rfl
    · rintro rfl
      exact hfeed rfl

end Sys2Proof

namespace Sys2Proof.Machine

/-! ### Requests of table words -/

theorem decodeTableWord_eq_some_iff {nbits w : Nat} {i : Instr} :
    decodeTableWord nbits w = some i ↔ decode (tableRequest nbits w) = .ok i := by
  unfold decodeTableWord
  cases decode (tableRequest nbits w) <;> simp

/-- Settles O5: the request presented is the next one taken, and taking it gives the state before. -/
theorem fetchWordRunsNext : Obligations.FetchWordRunsNext := by
  intro s nbits w i h
  exact step_of_decode_ok (s := s.withFetchWord nbits w) rfl (decodeTableWord_eq_some_iff.mp h)

/-- Settles O6: each word is closed, and the decoder runs on it. -/
theorem specWordsDecode : Obligations.SpecWordsDecode :=
  ⟨rfl, rfl, rfl, rfl, rfl, rfl, rfl, rfl, rfl⟩

/-! ### Hex lines -/

/-- Entry `2 i` of a list of pairs is the first of pair `i`, and entry `2 i + 1` the second. -/
theorem getElem?_flatMap_pair {α β : Type} (f g : α → β) (tail : List β) (l : List α) (i : Nat) (hi : i < l.length) :
    (l.flatMap (fun x => [f x, g x]) ++ tail)[2 * i]? = some (f l[i]) ∧
    (l.flatMap (fun x => [f x, g x]) ++ tail)[2 * i + 1]? = some (g l[i]) := by
  induction l generalizing i with
  | nil => cases hi
  | cons x l ih =>
    cases i with
    | zero => exact ⟨rfl, rfl⟩
    | succ i => exact ih i (Nat.lt_of_succ_lt_succ hi)

theorem hexLine_length (bytes : List Byte) : (hexLine bytes).length = 2 * bytes.length + 1 := by
  simp [hexLine, Nat.mul_comm]

/-- The digits in the order of their values (30_encoding.md R73). -/
theorem hexDigits_getElem? : ∀ v < 16,
    ['0', '1', '2', '3', '4', '5', '6', '7', '8', '9', 'a', 'b', 'c', 'd', 'e', 'f'][v]? = some (hexDigit v) := by
  decide

theorem toNat_highNibble (b : Byte) : (b.extractLsb' 4 4).toNat = b.toNat / 16 := by
  have := b.isLt
  rw [BitVec.extractLsb'_toNat, Nat.shiftRight_eq_div_pow]
  omega

theorem toNat_lowNibble (b : Byte) : (b.setWidth 4).toNat = b.toNat % 16 :=
  BitVec.toNat_setWidth 4 b

/-- Settles O18: the line is one pair of digits a byte, and each nibble is below 16. -/
theorem hexLineWritesTwoDigitsAByte : Obligations.HexLineWritesTwoDigitsAByte := by
  intro bytes s
  refine ⟨hexLine bytes, rfl, hexLine_length bytes, List.getLast?_concat, fun i hi => ?_⟩
  obtain ⟨hhigh, hlow⟩ := getElem?_flatMap_pair (fun b : Byte => hexDigit (b.toNat / 16))
    (fun b => hexDigit (b.toNat % 16)) ['\n'] bytes i hi
  have hb : bytes.getD i 0 = bytes[i] := List.getD_eq_getElem bytes 0 hi
  rw [hb, hexDigits_getElem? _ (BitVec.isLt _), hexDigits_getElem? _ (BitVec.isLt _), toNat_highNibble, toNat_lowNibble]
  exact ⟨hhigh, hlow⟩

/-! ### The rows of the type-byte dispatch -/

theorem busFrame_of_poll {m : Message} (h : m.type = Config.typePoll) :
    busFrame m = busFrameThen m (pollAddress m.address) := by
  funext s
  simp [busFrame, h]

theorem busFrame_of_not_poll {m : Message} (h : m.type ≠ Config.typePoll) : busFrame m = busFrameThen m id := by
  funext s
  simp only [busFrame, if_neg h]
  rfl

theorem hostSubmit_of_data {m : Message} (h : m.type = Config.typeData) (s : State) :
    hostSubmit m s = if verify m then submitAccepted m s else (.submit .rejected, s) := by
  simp [hostSubmit, h]

theorem hostSubmit_of_not_data {m : Message} (h : m.type ≠ Config.typeData) (s : State) :
    hostSubmit m s = (.submit .rejected, s) := by
  simp [hostSubmit, h]

theorem submitAccepted_room {s : State} (h : s.h2b.length ≠ 100) (m : Message) :
    submitAccepted m s = (.submit .ok, { s with h2b := s.h2b ++ [m] }) := by
  unfold submitAccepted
  rw [insertOrRaise_ok (q := .h2b) h]
  rfl

/-! What `exec` does for a row, by the side the frame comes from. -/

theorem exec_busframe (m : Message) (s : State) : exec (.busframe m) s = .next (busFrame m (beginOp s)) := rfl

theorem exec_tPoll_bus (m : Message) (s : State) :
    exec (.tPoll .bus m) s = .next (busFrameThen m (pollAddress m.address) (beginOp s)) := rfl

theorem exec_tData_bus (m : Message) (s : State) :
    exec (.tData .bus m) s = .next (busFrameThen m id (beginOp s)) := rfl

theorem exec_tOther_bus (m : Message) (s : State) :
    exec (.tOther .bus m) s = .next (busFrameThen m id (beginOp s)) := rfl

theorem exec_tPoll_host (m : Message) (s : State) :
    exec (.tPoll .host m) s = .next (returns (.submit .rejected) (beginOp s)) := rfl

theorem exec_tOther_host (m : Message) (s : State) :
    exec (.tOther .host m) s = .next (returns (.submit .rejected) (beginOp s)) := rfl

theorem exec_tData_host (m : Message) (s : State) :
    exec (.tData .host m) s = runRet (fun t => if verify m then submitAccepted m t else (.submit .rejected, t)) s := rfl

/-- Settles O44: a well-formed row's type decides which way `BUSFRAME` and `HSUBMIT` branch. -/
theorem typeRowsAgreeWithBusframeAndHsubmit : Obligations.TypeRowsAgreeWithBusframeAndHsubmit := by
  intro i m s hwf
  constructor
  · rintro (rfl | rfl | rfl)
    · have ht := wellFormed_tPoll_iff.mp hwf
      rw [exec_tPoll_bus, exec_busframe, busFrame_of_poll ht]
    · have ht := wellFormed_tData_iff.mp hwf
      rw [exec_tData_bus, exec_busframe, busFrame_of_not_poll (by simp [ht])]
    · obtain ⟨hp, _⟩ := wellFormed_tOther_iff.mp hwf
      rw [exec_tOther_bus, exec_busframe, busFrame_of_not_poll hp]
  · rintro (rfl | rfl | rfl)
    · have ht := wellFormed_tPoll_iff.mp hwf
      rw [exec_tPoll_host, exec_hsubmit, hostSubmit_of_not_data (by simp [ht])]
    · have ht := wellFormed_tData_iff.mp hwf
      rw [exec_tData_host, exec_hsubmit, hostSubmit_of_data ht, runRet_eq]
    · obtain ⟨_, hd⟩ := wellFormed_tOther_iff.mp hwf
      rw [exec_tOther_host, exec_hsubmit, hostSubmit_of_not_data hd]

/-- Settles O43: a CRC-valid frame passes the check before the dispatch, and the FIFO has room for it. -/
theorem typeRowsAct : Obligations.TypeRowsAct := by
  intro m s hv relayed events
  have hrelay : s.b2h.length ≠ 100 → ∀ f, busFrameThen m f (beginOp s) = f relayed := fun hr =>
    busFrameThen_room (s := beginOp s) hv hr
  refine ⟨fun hr => ⟨?_, ?_, fun hseen => ?_, fun hseen => ?_⟩, fun hr => ?_, rfl, rfl⟩
  · rw [exec_tData_bus, hrelay hr, id]
  · rw [exec_tOther_bus, hrelay hr, id]
  · rw [exec_tPoll_bus, hrelay hr, pollAddress_unseen (s := relayed) hseen]
  · rw [exec_tPoll_bus, hrelay hr, pollAddress_seen (s := relayed) hseen]
    rfl
  · rw [exec_tData_host, runRet_eq, if_pos hv, submitAccepted_room (s := beginOp s) hr]
    rfl

/-! ### The words of a poll frame -/

theorem verify_pollMessage (a : Byte) : verify (pollMessage a) = true := by
  simp [verify, pollMessage, computeCrc, body]

/-! `FEED` at the positions a frame with no data goes through (41_parser.md R91). -/

theorem parserFeed_address {s : State} (hc : s.pState = .collecting) (hp : s.pos = 1) (b : Byte) :
    parserFeed b s = (.pending, { s with mAddr := b, pos := 2 }) := by
  have h : parserFeed b s = feedAdvance { s with mAddr := b } := by
    simp [parserFeed, feedCap, hc, hp]
  rw [h, feedAdvance_of_not_last (by simp [hp])]
  simp [hp]

theorem parserFeed_length {s : State} (hc : s.pState = .collecting) (hp : s.pos = 2) (b : Byte) :
    parserFeed b s = (.pending, { s with mLen := b, pos := 3 }) := by
  have h : parserFeed b s = feedAdvance { s with mLen := b } := by
    simp [parserFeed, feedCap, hc, hp, not_dataCap_lt]
  rw [h, feedAdvance_of_not_last (by simp [hp])]
  simp [hp]

/-- `pos` counts without wrapping as long as it stays in a frame. -/
theorem toNat_pos_add_one {p : BitVec 9} {n : Nat} (h : p.toNat = n) (hn : n < 511) : (p + 1).toNat = n + 1 := by
  have h1 : (1 : BitVec 9).toNat = 1 := rfl
  rw [BitVec.toNat_add_of_lt (by omega), h1, h]

theorem parserFeed_crcHi {s : State} (hc : s.pState = .collecting) (hp : s.pos.toNat = 3 + s.mLen.toNat) (b : Byte) :
    parserFeed b s = (.pending, { s with mCrc := setCrcHi s.mCrc b, pos := s.pos + 1 }) := by
  have hlen := s.mLen.isLt
  have h : parserFeed b s = feedAdvance { s with mCrc := setCrcHi s.mCrc b } := by
    simp only [parserFeed, feedCap, hc]
    rw [if_neg (by omega), if_neg (by omega), if_neg (by omega), if_pos hp]
  rw [h, feedAdvance_of_not_last]
  rw [toNat_pos_add_one hp (by omega)]
  dsimp only
  omega

theorem parserFeed_crcLo {s : State} (hc : s.pState = .collecting) (hp : s.pos.toNat = 4 + s.mLen.toNat) (b : Byte) :
    parserFeed b s = (.complete (parsedMessage { s with mCrc := setCrcLo s.mCrc b }),
      { s with mCrc := setCrcLo s.mCrc b, pos := s.pos + 1, pState := .idle }) := by
  have hlen := s.mLen.isLt
  have h : parserFeed b s = feedAdvance { s with mCrc := setCrcLo s.mCrc b } := by
    simp only [parserFeed, feedCap, hc]
    rw [if_neg (by omega), if_neg (by omega), if_neg (by omega), if_neg (by omega)]
  rw [h, feedAdvance_of_last]
  rw [toNat_pos_add_one hp (by omega)]
  dsimp only
  omega

theorem exec_rxword_pending {b : Byte} {s t : State} (h : parserFeed b (beginOp s) = (.pending, t)) :
    exec (.rxword (mkWord false b)) s = .next t := by
  simp [exec_rxword, rxWord, h]

theorem exec_rxword_complete {b : Byte} {s t : State} {m : Message}
    (h : parserFeed b (beginOp s) = (.complete m, t)) :
    exec (.rxword (mkWord false b)) s = .next (busFrame m t) := by
  simp [exec_rxword, rxWord, h]

/-- `s` while a poll frame comes in: the next position, and the address and the CRC as far as they are received. -/
def receivingPoll (s : State) (pos : BitVec 9) (ad : Byte) (cr : Crc) : State :=
  withRegisters { beginOp s with pState := .collecting } pos Config.typePoll ad 0 (List.replicate Config.dataCap 0) cr

/-- A poll frame holds its type, its address, a length of 0 and its CRC (30_encoding.md R75). -/
theorem frameWords_pollMessage (a : Byte) :
    frameWords (encodeFrame (pollMessage a)) =
      [mkWord true Config.typePoll, mkWord false a, mkWord false 0, mkWord false (crcHi (pollMessage a).crc),
        mkWord false (crcLo (pollMessage a).crc)] := rfl

/-- The two CRC bytes of a frame, one after the other, replace the CRC register. -/
theorem setCrcLo_setCrcHi (c d : Crc) : setCrcLo (setCrcHi c (crcHi d)) (crcLo d) = d := by
  simp [setCrcHi, setCrcLo]

/-- The words of a poll frame, from any state, end in `BUSFRAME` of the poll (41_parser.md R94 (a)). -/
theorem execAll_pollFrame (a : Byte) (s : State) :
    execAll ((frameWords (encodeFrame (pollMessage a))).map .rxword) s =
      exec (.busframe (pollMessage a)) { receivingPoll s 5 a (pollMessage a).crc with pState := .idle } := by
  let hi := crcHi (pollMessage a).crc
  let lo := crcLo (pollMessage a).crc
  have hcrc : setCrcLo (setCrcHi 0 hi) lo = (pollMessage a).crc := setCrcLo_setCrcHi 0 _
  have htype : exec (.rxword (mkWord true Config.typePoll)) s = .next (receivingPoll s 1 0 0) := by
    rw [exec_rxword, rxWord_of_marked (wordMarker_mkWord ..), wordByte_mkWord]
    rfl
  have haddr : exec (.rxword (mkWord false a)) (receivingPoll s 1 0 0) = .next (receivingPoll s 2 a 0) :=
    exec_rxword_pending (parserFeed_address rfl rfl a)
  have hlen : exec (.rxword (mkWord false 0)) (receivingPoll s 2 a 0) = .next (receivingPoll s 3 a 0) :=
    exec_rxword_pending (parserFeed_length rfl rfl 0)
  have hhi : exec (.rxword (mkWord false hi)) (receivingPoll s 3 a 0) = .next (receivingPoll s 4 a (setCrcHi 0 hi)) :=
    exec_rxword_pending (parserFeed_crcHi rfl rfl hi)
  have hfeed : parserFeed lo (receivingPoll s 4 a (setCrcHi 0 hi)) =
      (.complete (pollMessage a), { receivingPoll s 5 a (pollMessage a).crc with pState := .idle }) := by
    rw [parserFeed_crcLo rfl rfl, ← hcrc]
    exact congrArg (fun m => (FeedResult.complete m, _)) (message_ext rfl rfl rfl rfl hcrc)
  have hlo : exec (.rxword (mkWord false lo)) (receivingPoll s 4 a (setCrcHi 0 hi)) =
      exec (.busframe (pollMessage a)) { receivingPoll s 5 a (pollMessage a).crc with pState := .idle } :=
    exec_rxword_complete hfeed
  rw [frameWords_pollMessage]
  simp only [List.map_cons, List.map_nil]
  rw [execAll_cons htype, execAll_cons haddr, execAll_cons hlen, execAll_cons hhi, execAll_cons hlo]
  rfl

/-- Settles O24: the words end in `BUSFRAME` of the poll, which is CRC-valid and of a seen address. -/
theorem pollFrameWordsAreAnswered : Obligations.PollFrameWordsAreAnswered := by
  intro a s hseen hroom
  let received : State := { receivingPoll s 5 a (pollMessage a).crc with pState := .idle }
  let relayed : State := { received with b2h := s.b2h ++ [pollMessage a] }
  have hanswer : busFrame (pollMessage a) received = pollAddress a relayed := by
    rw [busFrame_of_poll rfl]
    exact busFrameThen_room (s := received) (verify_pollMessage a) hroom _
  refine ⟨pollAddress a relayed, ?_, ?_⟩
  · rw [execAll_pollFrame, exec_busframe]
    exact congrArg Host.Outcome.next hanswer
  · rw [pollAddress_seen (s := relayed) hseen]
    exact ⟨rfl, rfl, rfl, rfl, rfl, rfl⟩

end Sys2Proof.Machine

/-! ## The frame codec (40_codec.md)

### The operations are pure

Each sets the outcome to its result and leaves the rest of the state as it is (40_codec.md R80). -/

namespace Sys2Proof.Machine

theorem exec_crc16 (bytes : List Byte) (s : State) :
    exec (.crc16 bytes) s = .next { s with outcome := ⟨[], [], .u16 (crc16 bytes)⟩ } := rfl

theorem exec_encode (m : Message) (s : State) :
    exec (.encode m) s = .next { s with outcome := ⟨[], [], .bytes (encodeFrame m)⟩ } := rfl

theorem exec_decode (bytes : List Byte) (s : State) :
    exec (.decode bytes) s = .next { s with outcome := ⟨[], [], .optMessage (decodeFrame bytes)⟩ } := rfl

theorem exec_computecrc (m : Message) (s : State) :
    exec (.computecrc m) s = .next { s with outcome := ⟨[], [], .u16 (crc16 (body m))⟩ } := rfl

theorem exec_verify (m : Message) (s : State) :
    exec (.verify m) s = .next { s with outcome := ⟨[], [], .bool (crc16 (body m) == m.crc)⟩ } := rfl

/-! ### The CRC register as a linear map

A CRC is a vector of 16 bits over GF(2), with XOR as its addition. One bit of the loop of `CRCBYTE` is a linear and
injective map of it, and a byte enters where eight more bits of the loop would carry it (40_codec.md R81). -/

/-- What the bit shifted out of the register adds to it. -/
def crcTap (out : Bool) : Crc :=
  if out then 0x1021#16 else 0

theorem crcTap_xor : ∀ p q : Bool, crcTap (p ^^ q) = crcTap p ^^^ crcTap q := by
  decide

/-- Bit 0 of the polynomial is set, so the bit shifted out can be read back. -/
theorem getLsbD_crcTap_zero : ∀ out : Bool, (crcTap out).getLsbD 0 = out := by
  decide

theorem crcBit_eq (c : Crc) : crcBit c = (c <<< 1) ^^^ crcTap (c.getLsbD 15) := by
  unfold crcBit crcTap
  split
  · rfl
  · exact (BitVec.xor_zero).symm

theorem crcBit_xor (c d : Crc) : crcBit (c ^^^ d) = crcBit c ^^^ crcBit d := by
  simp only [crcBit_eq, BitVec.getLsbD_xor, crcTap_xor, BitVec.shiftLeft_xor_distrib]
  ac_rfl

theorem crcBit_eq_zero_iff {c : Crc} : crcBit c = 0 ↔ c = 0 := by
  refine ⟨fun h => ?_, by rintro rfl; rfl⟩
  have hshift : c <<< 1 = crcTap (c.getLsbD 15) := BitVec.xor_eq_zero_iff.mp ((crcBit_eq c).symm.trans h)
  have hout : c.getLsbD 15 = false := by
    rw [← getLsbD_crcTap_zero (c.getLsbD 15), ← hshift]
    simp
  have hlt : 2 * c.toNat < 2 ^ 16 := BitVec.msb_eq_false_iff_two_mul_lt.mp hout
  have hzero : c <<< 1 = 0#16 := hshift.trans (congrArg crcTap hout)
  bv_omega

theorem crcBits_eq_iterate (k : Nat) (c : Crc) : crcBits k c = crcBit^[k] c := by
  induction k generalizing c with
  | zero => rfl
  | succ k ih => exact ih (crcBit c)

theorem crcBits_add (j k : Nat) (c : Crc) : crcBits (j + k) c = crcBits j (crcBits k c) := by
  simp only [crcBits_eq_iterate, Function.iterate_add_apply]

theorem crcBits_xor (k : Nat) (c d : Crc) : crcBits k (c ^^^ d) = crcBits k c ^^^ crcBits k d := by
  induction k generalizing c d with
  | zero => rfl
  | succ k ih => simp only [crcBits, crcBit_xor, ih]

theorem crcBits_eq_zero_iff {k : Nat} {c : Crc} : crcBits k c = 0 ↔ c = 0 := by
  induction k generalizing c with
  | zero => rfl
  | succ k ih => exact ih.trans crcBit_eq_zero_iff

/-- A byte in the low half meets no bit of the polynomial while it is shifted into the high half. -/
theorem crcBits_eight_setWidth : ∀ b : Byte, crcBits 8 (b.setWidth 16) = b.setWidth 16 <<< 8 := by
  decide +kernel

theorem crcByte_eq (c : Crc) (b : Byte) : crcByte c b = crcBits 8 (c ^^^ (b.setWidth 16 <<< 8)) := rfl

theorem crcByte_zero (b : Byte) : crcByte 0 b = crcBits 8 (b.setWidth 16 <<< 8) :=
  congrArg (crcBits 8) BitVec.zero_xor

/-- A byte enters the register where the next eight bits of the loop would carry it. -/
theorem crcByte_crcBits_eight (c : Crc) (b : Byte) : crcByte (crcBits 8 c) b = crcBits 16 (c ^^^ b.setWidth 16) := by
  rw [crcByte_eq, ← crcBits_eight_setWidth, ← crcBits_xor, ← crcBits_add]

/-- The two halves of a CRC, each in its place. -/
theorem crc_eq_hi_xor_lo (c : Crc) : ((crcHi c).setWidth 16 <<< 8) ^^^ (crcLo c).setWidth 16 = c :=
  crcOfBytes_hi_lo c

theorem crcLo_shiftLeft_eight (c : Crc) : (crcLo c).setWidth 16 <<< 8 = c <<< 8 := by
  simp only [crcLo]
  bv_omega

/-- Settles O12: the high half of the CRC meets the byte, the low half is only shifted. -/
theorem crcByteIsTableLookup : Obligations.CrcByteIsTableLookup := by
  intro c b
  have hin : c ^^^ (b.setWidth 16 <<< 8) = ((b ^^^ crcHi c).setWidth 16 <<< 8) ^^^ (crcLo c).setWidth 16 := by
    conv_lhs => rw [← crc_eq_hi_xor_lo c]
    rw [BitVec.setWidth_xor, BitVec.shiftLeft_xor_distrib]
    ac_rfl
  calc crcByte c b
      = crcBits 8 ((b ^^^ crcHi c).setWidth 16 <<< 8) ^^^ crcBits 8 ((crcLo c).setWidth 16) := by
        rw [crcByte_eq, hin, crcBits_xor]
    _ = crcByte 0 (b ^^^ crcHi c) ^^^ (c <<< 8) := by
        rw [crcBits_eight_setWidth, crcLo_shiftLeft_eight, crcByte_zero]

/-- The bits of the loop as a fold of their number. -/
theorem crcBits_eq_foldl (k : Nat) (c : Crc) :
    crcBits k c = (List.range k).foldl (fun x _ => crcBit x) c := by
  rw [crcBits_eq_iterate, List.foldl_const, List.length_range]

/-- Settles O9: the fold of bytes is `crc16_snoc`, the fold of bits `crcBits_eq_foldl`. -/
theorem crc16FoldsBytesMsbFirst : Obligations.Crc16FoldsBytesMsbFirst :=
  ⟨exec_crc16, rfl, crc16_snoc, fun _ _ => crcBits_eq_foldl 8 _, by decide +kernel⟩

/-! ### The CRC of a list with a CRC at its end -/

/-- Two bytes at the end of a list, high byte first, are added to its CRC before sixteen bits of the loop. -/
theorem crc16_append_crc (l : List Byte) (d : Crc) : crc16 (l ++ [crcHi d, crcLo d]) = crcBits 16 (crc16 l ^^^ d) := by
  have hd : ((crcHi d).setWidth 16 <<< 8) ^^^ (crcLo d).setWidth 16 = d := crc_eq_hi_xor_lo d
  calc crc16 (l ++ [crcHi d, crcLo d])
      = crcByte (crcByte (crc16 l) (crcHi d)) (crcLo d) := by
        rw [← crc16_snoc, ← crc16_snoc, List.append_assoc, List.singleton_append]
    _ = crcBits 16 (crc16 l ^^^ ((crcHi d).setWidth 16 <<< 8) ^^^ (crcLo d).setWidth 16) := by
        rw [crcByte_eq (crc16 l), crcByte_crcBits_eight]
    _ = crcBits 16 (crc16 l ^^^ d) := by
        rw [BitVec.xor_assoc, hd]

theorem crc16_append_crc_eq_zero_iff {l : List Byte} {d : Crc} : crc16 (l ++ [crcHi d, crcLo d]) = 0 ↔ crc16 l = d := by
  rw [crc16_append_crc, crcBits_eq_zero_iff]
  exact BitVec.xor_eq_zero_iff

theorem verify_iff {m : Message} : verify m = true ↔ crc16 (body m) = m.crc :=
  beq_iff_eq

/-- Settles O11: a list with two bytes at its end has CRC 0 exactly when the bytes are its CRC. -/
theorem crcResidueIsZero : Obligations.CrcResidueIsZero :=
  ⟨fun _ => crc16_append_crc_eq_zero_iff.mpr rfl,
    fun _ => verify_iff.trans crc16_append_crc_eq_zero_iff.symm⟩

/-! ### Frames to Messages and back -/

/-- Settles O13. -/
theorem encodeWritesTheFrame : Obligations.EncodeWritesTheFrame :=
  fun m s => ⟨exec_encode m s, encodeFrame_length m⟩

/-- Settles O15: both operations work on `BODY(m)`. -/
theorem computeCrcAndVerify : Obligations.ComputeCrcAndVerify :=
  fun m s => ⟨exec_computecrc m s, exec_verify m s⟩

/-- Settles O16. -/
theorem decodeOfEncodedMessage : Obligations.DecodeOfEncodedMessage :=
  decodeFrame_encodeFrame_append

/-- 40_codec.md R83: the buffers that are too short (92_eei_decisions.md D13). -/
theorem decodeFrame_eq_none_iff {bytes : List Byte} :
    decodeFrame bytes = none ↔ bytes.length < 3 ∨ bytes.length < 5 + (bytes.getD 2 0).toNat := by
  match bytes with
  | t :: a :: l :: rest =>
    have hlen : (t :: a :: l :: rest).length = 3 + rest.length := by simp only [List.length_cons]; omega
    have hl : (t :: a :: l :: rest).getD 2 0 = l := rfl
    rw [hlen, hl, decodeFrame]
    split
    next => simp only [reduceCtorEq, false_iff]; omega
    next => simp only [true_iff]; omega
  | [] | [_] | [_, _] => simp [decodeFrame]

/-- 40_codec.md R83: a buffer that decodes, as its first three bytes, its data, its CRC and what follows. -/
theorem eq_fields_of_decodeFrame {bytes : List Byte} {m : Message} (h : decodeFrame bytes = some m) :
    ∃ more, bytes = m.type :: m.address :: m.length :: (m.data ++ crcHi m.crc :: crcLo m.crc :: more) := by
  refine ⟨bytes.drop (5 + m.length.toNat), ?_⟩
  simpa [encodeFrame_eq] using eq_encodeFrame_append_of_decodeFrame h

/-- Settles O14: a buffer that is long enough decodes, and its Message's fields stand in it one after the other. -/
theorem decodeReadsTheFrame : Obligations.DecodeReadsTheFrame := by
  intro bytes s
  rw [exec_decode]
  split
  next hshort => rw [decodeFrame_eq_none_iff.mpr hshort]
  next hlong =>
    obtain ⟨m, hm⟩ := Option.ne_none_iff_exists'.mp (mt decodeFrame_eq_none_iff.mp hlong)
    obtain ⟨more, rfl⟩ := eq_fields_of_decodeFrame hm
    have hd : m.data.length = m.length.toNat := m.wf
    refine ⟨m, by rw [hm], rfl, rfl, rfl, ?_, ?_⟩
    · simp [← hd]
    · refine (crc_eq_hi_xor_lo m.crc).symm.trans ?_
      simp [← hd, Nat.add_comm 3, Nat.add_comm 4, List.getD_eq_getElem?_getD]

/-- Settles O17: the length of the list leaves nothing after the frame. -/
theorem encodeOfDecodedFrame : Obligations.EncodeOfDecodedFrame := by
  intro b hmin hlen
  have hlong : ¬ (b.length < 3 ∨ b.length < 5 + (b.getD 2 0).toNat) := by omega
  obtain ⟨m, hm⟩ := Option.ne_none_iff_exists'.mp (mt decodeFrame_eq_none_iff.mp hlong)
  have hb := eq_encodeFrame_append_of_decodeFrame hm
  have hml : b.getD 2 0 = m.length := by rw [hb, encodeFrame_eq]; rfl
  refine ⟨m, hm, ?_⟩
  rw [List.drop_eq_nil_of_le (by rw [hlen, hml]), List.append_nil] at hb
  exact hb.symm

end Sys2Proof.Machine

/-! ### The CRC as a remainder

A string of bits is a polynomial over GF(2), most significant bit first (93_implementation_defined.md G3). Modulo the
divisor, one bit of the loop of `CRCBYTE` is a multiplication by `x`. -/

namespace Sys2Proof.Machine

section Remainder

open Polynomial

/-- The polynomial of a string of bits, most significant first. -/
noncomputable def bitsPoly (bits : List Bool) : (ZMod 2)[X] :=
  bits.foldl (fun p b => p * X + (if b then 1 else 0)) 0

/-- The bits of a word, most significant first. -/
def msbBits {w : Nat} (c : BitVec w) : List Bool :=
  (List.range w).map (fun i => c.getMsbD i)

/-- The polynomial of a word: bit `i` is the coefficient of `x^i`. -/
noncomputable def wordPoly {w : Nat} (c : BitVec w) : (ZMod 2)[X] :=
  bitsPoly (msbBits c)

/-- The divisor of 40_codec.md R81. -/
noncomputable def crcDivisor : (ZMod 2)[X] :=
  X ^ 16 + X ^ 12 + X ^ 5 + 1

theorem bitsPoly_snoc (bits : List Bool) (b : Bool) :
    bitsPoly (bits ++ [b]) = bitsPoly bits * X + (if b then 1 else 0) := by
  simp [bitsPoly]

theorem bitsPoly_append (bits more : List Bool) :
    bitsPoly (bits ++ more) = bitsPoly bits * X ^ more.length + bitsPoly more := by
  induction more using List.reverseRecOn with
  | nil => simp [bitsPoly]
  | append_singleton more b ih =>
    rw [← List.append_assoc, bitsPoly_snoc, bitsPoly_snoc, ih, List.length_append, List.length_singleton]
    ring

theorem coeff_bitsPoly_range (f : Nat → Bool) (n i : Nat) :
    (bitsPoly ((List.range n).map f)).coeff i = if i < n ∧ f (n - 1 - i) then 1 else 0 := by
  induction n generalizing i with
  | zero => simp [bitsPoly]
  | succ n ih =>
    rw [List.range_succ, List.map_append, List.map_singleton, bitsPoly_snoc]
    cases i with
    | zero => cases h : f n <;> simp [h]
    | succ i =>
      have hi : n - (i + 1) = n - 1 - i := by omega
      cases f n <;> simp [ih, hi, coeff_one]

theorem coeff_wordPoly {w : Nat} (c : BitVec w) (i : Nat) :
    (wordPoly c).coeff i = if c.getLsbD i then 1 else 0 := by
  rw [wordPoly, msbBits, coeff_bitsPoly_range]
  by_cases hi : i < w
  · have hpos : w - 1 - i < w := by omega
    have hidx : w - 1 - (w - 1 - i) = i := by omega
    simp only [BitVec.getMsbD, hi, hpos, hidx, decide_true, Bool.true_and, true_and]
  · simp [hi, BitVec.getLsbD_of_ge c i (by omega)]

theorem wordPoly_xor {w : Nat} (c d : BitVec w) : wordPoly (c ^^^ d) = wordPoly c + wordPoly d := by
  ext i
  rw [coeff_add, coeff_wordPoly, coeff_wordPoly, coeff_wordPoly, BitVec.getLsbD_xor]
  cases c.getLsbD i <;> cases d.getLsbD i <;> decide

/-- A byte in the high half of a CRC. -/
theorem wordPoly_byte_shiftLeft (b : Byte) : wordPoly ((b.setWidth 16 : Crc) <<< 8) = wordPoly b * X ^ 8 := by
  ext i
  rw [coeff_wordPoly, coeff_mul_X_pow', coeff_wordPoly, BitVec.getLsbD_shiftLeft, BitVec.getLsbD_setWidth]
  by_cases h8 : 8 ≤ i
  · by_cases h16 : i < 16
    · have hlow : i - 8 < 16 := by omega
      simp [h8, h16, hlow]
    · simp [h8, h16, BitVec.getLsbD_of_ge b (i - 8) (by omega)]
  · simp [h8]

/-- A shift by one is a multiplication by `x`, but for the bit shifted out. -/
theorem wordPoly_shiftLeft_one (c : Crc) :
    wordPoly (c <<< 1) + (if c.getLsbD 15 then X ^ 16 else 0) = wordPoly c * X := by
  ext i
  cases i with
  | zero => cases c.getLsbD 15 <;> simp [coeff_wordPoly]
  | succ i =>
    rw [coeff_add, coeff_mul_X, coeff_wordPoly, coeff_wordPoly, BitVec.getLsbD_shiftLeft]
    rcases lt_trichotomy i 15 with h | rfl | h
    · have hne : i ≠ 15 := by omega
      have hlt : i + 1 < 16 := by omega
      cases c.getLsbD 15 <;> simp [coeff_X_pow, hne, hlt]
    · cases c.getLsbD 15 <;> simp
    · have hne : i ≠ 15 := by omega
      have hge : ¬ i + 1 < 16 := by omega
      cases c.getLsbD 15 <;> simp [coeff_X_pow, hne, hge, BitVec.getLsbD_of_ge c i (by omega)]

theorem wordPoly_zero (w : Nat) : wordPoly (0#w) = 0 := by
  ext i
  simp [coeff_wordPoly]

/-- The constant of the loop is the divisor without its first term, bit 16 (93_implementation_defined.md G2). -/
theorem wordPoly_crcTap (out : Bool) :
    wordPoly (crcTap out) + (if out then X ^ 16 else 0) = if out then crcDivisor else 0 := by
  cases out
  · simp [crcTap, wordPoly_zero]
  · have hbits : msbBits (crcTap true) = [false, false, false, true, false, false, false, false,
        false, false, true, false, false, false, false, true] := by decide
    rw [wordPoly, hbits, if_pos rfl, if_pos rfl, crcDivisor]
    simp only [bitsPoly, List.foldl_cons, List.foldl_nil, if_true, Bool.false_eq_true, if_false]
    ring

/-- One bit of the loop multiplies by `x`, and adds the divisor when the product has the degree 16. -/
theorem wordPoly_crcBit (c : Crc) :
    wordPoly (crcBit c) = wordPoly c * X + (if c.getLsbD 15 then crcDivisor else 0) := by
  rw [crcBit_eq, wordPoly_xor, ← wordPoly_shiftLeft_one, ← wordPoly_crcTap, add_add_add_comm,
    CharTwo.add_self_eq_zero, add_zero]

theorem mk_wordPoly_crcBit (c : Crc) :
    AdjoinRoot.mk crcDivisor (wordPoly (crcBit c)) = AdjoinRoot.mk crcDivisor (wordPoly c * X) := by
  rw [wordPoly_crcBit, map_add]
  cases c.getLsbD 15 <;> simp

theorem mk_wordPoly_crcBits (k : Nat) (c : Crc) :
    AdjoinRoot.mk crcDivisor (wordPoly (crcBits k c)) = AdjoinRoot.mk crcDivisor (wordPoly c * X ^ k) := by
  induction k generalizing c with
  | zero => simp [crcBits]
  | succ k ih => rw [crcBits, ih, map_mul, mk_wordPoly_crcBit, ← map_mul, mul_assoc, ← pow_succ']

theorem mk_wordPoly_crcByte (c : Crc) (b : Byte) :
    AdjoinRoot.mk crcDivisor (wordPoly (crcByte c b)) =
      AdjoinRoot.mk crcDivisor ((wordPoly c + wordPoly b * X ^ 8) * X ^ 8) := by
  rw [crcByte_eq, mk_wordPoly_crcBits, wordPoly_xor, wordPoly_byte_shiftLeft]

/-- The polynomial of a byte list, first byte and most significant bit first. -/
noncomputable def bytesPoly (l : List Byte) : (ZMod 2)[X] :=
  bitsPoly (l.flatMap msbBits)

theorem bytesPoly_snoc (l : List Byte) (b : Byte) : bytesPoly (l ++ [b]) = bytesPoly l * X ^ 8 + wordPoly b := by
  simp [bytesPoly, bitsPoly_append, msbBits, wordPoly]

/-- The CRC of a list is congruent to the list's polynomial, shifted by 16. -/
theorem mk_wordPoly_crc16 (l : List Byte) :
    AdjoinRoot.mk crcDivisor (wordPoly (crc16 l)) = AdjoinRoot.mk crcDivisor (bytesPoly l * X ^ 16) := by
  induction l using List.reverseRecOn with
  | nil =>
    have hcrc : wordPoly (crc16 []) = 0 := wordPoly_zero 16
    have hlist : bytesPoly [] = 0 := rfl
    rw [hcrc, hlist, zero_mul]
  | append_singleton l b ih =>
    calc AdjoinRoot.mk crcDivisor (wordPoly (crc16 (l ++ [b])))
        = AdjoinRoot.mk crcDivisor ((bytesPoly l * X ^ 16 + wordPoly b * X ^ 8) * X ^ 8) := by
          rw [crc16_snoc, mk_wordPoly_crcByte, map_mul, map_add, ih, ← map_add, ← map_mul]
      _ = AdjoinRoot.mk crcDivisor (bytesPoly (l ++ [b]) * X ^ 16) := by
          rw [bytesPoly_snoc]
          ring_nf

theorem crcDivisor_monic : crcDivisor.Monic := by
  unfold crcDivisor
  monicity!

theorem degree_crcDivisor : crcDivisor.degree = (16 : Nat) := by
  unfold crcDivisor
  compute_degree!

theorem degree_wordPoly_lt {w : Nat} (c : BitVec w) : (wordPoly c).degree < w := by
  rw [degree_lt_iff_coeff_zero]
  intro i hi
  rw [coeff_wordPoly, BitVec.getLsbD_of_ge c i hi]
  rfl

/-- Settles O10: the CRC is congruent to the shifted list modulo the divisor, and of smaller degree than the divisor. -/
theorem crc16IsPolynomialRemainder : Obligations.Crc16IsPolynomialRemainder := by
  intro l
  change wordPoly (crc16 l) = (bytesPoly l * X ^ 16) %ₘ crcDivisor
  have hdvd : crcDivisor ∣ wordPoly (crc16 l) - bytesPoly l * X ^ 16 := AdjoinRoot.mk_eq_mk.mp (mk_wordPoly_crc16 l)
  have hdeg : (wordPoly (crc16 l)).degree < crcDivisor.degree :=
    (degree_wordPoly_lt (crc16 l)).trans_eq degree_crcDivisor.symm
  calc wordPoly (crc16 l)
      = wordPoly (crc16 l) %ₘ crcDivisor := ((modByMonic_eq_self_iff crcDivisor_monic).mpr hdeg).symm
    _ = (bytesPoly l * X ^ 16) %ₘ crcDivisor := modByMonic_eq_of_dvd_sub crcDivisor_monic hdvd

end Remainder

end Sys2Proof.Machine

/-! ## The frame parser (41_parser.md)

### One byte at each position -/

namespace Sys2Proof.Machine

theorem exec_feed {b : Byte} {s t : State} {r : FeedResult} (h : parserFeed b (beginOp s) = (r, t)) :
    exec (.feed b) s = .next (returns (.feed r) t) := by
  rw [exec, execFeed, runRet_eq, h]

/-- A data byte never completes a frame: the two CRC bytes are still to come. -/
theorem parserFeed_data {s : State} (hc : s.pState = .collecting) (h3 : 3 ≤ s.pos.toNat)
    (hlt : s.pos.toNat < 3 + s.mLen.toNat) (b : Byte) :
    parserFeed b s = (.pending, { s with mData := s.mData.set (s.pos.toNat - 3) b, pos := s.pos + 1 }) := by
  have hlen := s.mLen.isLt
  have h : parserFeed b s = feedAdvance { s with mData := s.mData.set (s.pos.toNat - 3) b } := by
    simp only [parserFeed, feedCap, hc]
    rw [if_neg (by omega), if_neg (by omega), if_pos hlt]
  rw [h, feedAdvance_of_not_last]
  rw [toNat_pos_add_one (p := s.pos) rfl (by omega)]
  dsimp only
  omega

theorem setCrcHi_eq (c : Crc) (b : Byte) : setCrcHi c b = (b.setWidth 16 <<< 8) ^^^ (c &&& 0x00ff#16) := by
  have hlow : (crcLo c).setWidth 16 = c &&& 0x00ff#16 := by
    ext i hi
    interval_cases i <;> simp [crcLo]
  rw [setCrcHi, crcOfBytes, hlow]

theorem setCrcLo_eq (c : Crc) (b : Byte) : setCrcLo c b = (c &&& 0xff00#16) ^^^ b.setWidth 16 := by
  have hhigh : (crcHi c).setWidth 16 <<< 8 = c &&& 0xff00#16 := by
    ext i hi
    interval_cases i <;> simp [crcHi]
  rw [setCrcLo, crcOfBytes, hhigh]

/-- Settles O21: `FEED` at each of the five kinds of position. -/
theorem feedStoresByPosition : Obligations.FeedStoresByPosition := by
  intro b s hc hok
  obtain ⟨hbuffer, -⟩ := hok
  refine ⟨fun hp => ?address, fun hp => ?length, fun h3 hlt => ?data, fun hp => ?crcHi, fun hp => ?crcLo⟩
  case address =>
    have hp1 : s.pos = 1 := BitVec.eq_of_toNat_eq hp
    exact exec_feed (parserFeed_address (s := beginOp s) hc hp1 b)
  case length =>
    have hp2 : s.pos = 2 := BitVec.eq_of_toNat_eq hp
    exact exec_feed (parserFeed_length (s := beginOp s) hc hp2 b)
  case data => exact exec_feed (parserFeed_data (s := beginOp s) hc h3 hlt b)
  case crcHi =>
    rw [← setCrcHi_eq]
    exact exec_feed (parserFeed_crcHi (s := beginOp s) hc hp b)
  case crcLo =>
    have hlen := s.mLen.isLt
    rw [← setCrcLo_eq]
    refine ⟨_, exec_feed (parserFeed_crcLo (s := beginOp s) hc hp b), rfl, rfl, rfl, ?_, rfl⟩
    exact dataPrefix_eq_take (by rw [beginOp_mData, hbuffer, Config.dataCap_eq, beginOp_mLen]; omega)

/-- Settles O19: an operation that returns nothing runs on the state with a fresh outcome. -/
theorem startOpensAFreshFrame : Obligations.StartOpensAFreshFrame :=
  fun t s => run_eq (parserStart t) s

theorem feedCap_length_over {cap : Nat} {b : Byte} {s : State} (hc : s.pState = .collecting) (hp : s.pos = 2)
    (h : cap < b.toNat) :
    feedCap cap b s = (.refused, raise .feed (.oversizeLength b) { s with pState := .idle }) := by
  simp [feedCap, hc, hp, h]

/-- A length byte the guard lets pass is stored as at this hardware's capacity. -/
theorem feedCap_length_within {cap : Nat} {b : Byte} {s : State} (hc : s.pState = .collecting) (hp : s.pos = 2)
    (h : b.toNat ≤ cap) : feedCap cap b s = (.pending, { s with mLen := b, pos := 3 }) := by
  have hsame : feedCap cap b s = parserFeed b s := by
    simp [parserFeed, feedCap, hc, hp, not_dataCap_lt, Nat.not_lt.mpr h]
  rw [hsame, parserFeed_length hc hp]

/-- Settles O22: the guard at either side of the capacity, and no byte is above 255. -/
theorem oversizeLengthGuard : Obligations.OversizeLengthGuard :=
  ⟨fun _ _ _ hc hp h => feedCap_length_over hc hp h, fun _ _ _ hc hp h => feedCap_length_within hc hp h, not_dataCap_lt⟩

/-- Settles O25: a marked word is `START`, which writes every parser register. -/
theorem markedWordResynchronises : Obligations.MarkedWordResynchronises := by
  intro s w p pos ty ad ln da cr hw
  rw [exec_rxword, exec_rxword, rxWord_of_marked hw, rxWord_of_marked hw]
  rfl

/-! ### The words of a frame

After `k` words of a frame the registers are those of its first `k` bytes. One statement about `k` says
so: none of the words before the last does anything else, and the last finds the parser at the CRC's low byte. -/

theorem execAll_append {is : List Instr} {s t : State} (h : execAll is s = .next t) (js : List Instr) :
    execAll (is ++ js) s = execAll js t := by
  induction is generalizing s with
  | nil => rw [List.nil_append, Host.Outcome.next.inj h]
  | cons i is ih =>
    cases he : exec i s with
    | next u =>
      rw [execAll_cons he] at h
      rw [List.cons_append, execAll_cons he, ih h]
    | fault | refused => simp [execAll, he] at h

theorem execAll_singleton (i : Instr) (s : State) : execAll [i] s = exec i s := by
  cases he : exec i s with
  | next t => exact execAll_cons he []
  | fault | refused => simp [execAll, he]

/-- The data buffer with the first bytes in it and the rest as `START` left it. -/
def dataBuffer (l : List Byte) : List Byte :=
  l ++ List.replicate (Config.dataCap - l.length) 0

theorem dataBuffer_set_next {l : List Byte} (h : l.length < Config.dataCap) (b : Byte) :
    (dataBuffer l).set l.length b = dataBuffer (l ++ [b]) := by
  obtain ⟨n, hn⟩ := Nat.exists_eq_add_of_lt h
  have hfree : Config.dataCap - l.length = n + 1 := by omega
  have hleft : Config.dataCap - (l.length + 1) = n := by omega
  simp [dataBuffer, hfree, hleft, List.replicate_succ]

/-- `s` in the middle of a frame: `pos` and the fields received so far. -/
def receiving (s : State) (pos : Nat) (ty ad ln : Byte) (da : List Byte) (cr : Crc) : State :=
  withRegisters { beginOp s with pState := .collecting } (BitVec.ofNat 9 pos) ty ad ln (dataBuffer da) cr

theorem toNat_ofNat_pos {n : Nat} (h : n < 512) : (BitVec.ofNat 9 n).toNat = n := by
  rw [BitVec.toNat_ofNat, Nat.mod_eq_of_lt h]

section Receiving

variable (s : State) (ty ad ln b : Byte) (da : List Byte) (cr : Crc)

theorem receiving_pos_toNat {n : Nat} (h : n < 512) : (receiving s n ty ad ln da cr).pos.toNat = n :=
  toNat_ofNat_pos h

theorem receiving_pos_add_one (n : Nat) : (receiving s n ty ad ln da cr).pos + 1 = BitVec.ofNat 9 (n + 1) :=
  (BitVec.ofNat_add ..).symm

theorem parserFeed_receiving_data (h : da.length < ln.toNat) :
    parserFeed b (receiving s (da.length + 3) ty ad ln da cr) =
      (.pending, receiving s (da.length + 4) ty ad ln (da ++ [b]) cr) := by
  have hcap : ln.toNat ≤ Config.dataCap := Nat.not_lt.mp (not_dataCap_lt ln)
  have hpos := receiving_pos_toNat s ty ad ln da cr (n := da.length + 3) (by rw [Config.dataCap_eq] at hcap; omega)
  have hend : (receiving s (da.length + 3) ty ad ln da cr).pos.toNat < 3 + ln.toNat := by omega
  have hstore := dataBuffer_set_next (l := da) (by omega) b
  rw [parserFeed_data rfl (by omega) hend, hpos, receiving_pos_add_one]
  simp only [receiving, ← hstore]
  rfl

theorem parserFeed_receiving_crcHi :
    parserFeed b (receiving s (ln.toNat + 3) ty ad ln da cr) =
      (.pending, receiving s (ln.toNat + 4) ty ad ln da (setCrcHi cr b)) := by
  have hcap := ln.isLt
  have hpos := receiving_pos_toNat s ty ad ln da cr (n := ln.toNat + 3) (by omega)
  rw [parserFeed_crcHi rfl (hpos.trans (Nat.add_comm ..)), receiving_pos_add_one]
  rfl

/-- The last byte completes the frame: the Message is what the registers hold. -/
theorem parserFeed_receiving_crcLo (wf : da.length = ln.toNat) :
    parserFeed b (receiving s (ln.toNat + 4) ty ad ln da cr) =
      (.complete ⟨ty, ad, ln, da, setCrcLo cr b, wf⟩,
        { receiving s (ln.toNat + 5) ty ad ln da (setCrcLo cr b) with pState := .idle }) := by
  have hcap := ln.isLt
  have hpos := receiving_pos_toNat s ty ad ln da cr (n := ln.toNat + 4) (by omega)
  have hdata : dataPrefix (dataBuffer da) ln.toNat = da := by
    rw [← wf, dataPrefix_eq_take (by simp [dataBuffer]), dataBuffer, List.take_left]
  have hmessage : parsedMessage (receiving s (ln.toNat + 4) ty ad ln da (setCrcLo cr b)) =
      ⟨ty, ad, ln, da, setCrcLo cr b, wf⟩ := message_ext rfl rfl rfl hdata rfl
  rw [parserFeed_crcLo rfl (hpos.trans (Nat.add_comm ..)), receiving_pos_add_one, ← hmessage]
  rfl

end Receiving

/-- `s` once it received the first `k` words of the frame of `m`. -/
def receivingFrame (m : Message) (s : State) : Nat → State
  | 0 => s
  | 1 => receiving s 1 m.type 0 0 [] 0
  | 2 => receiving s 2 m.type m.address 0 [] 0
  | i + 3 => receiving s (i + 3) m.type m.address m.length (m.data.take i)
      (if i ≤ m.length.toNat then 0 else setCrcHi 0 (crcHi m.crc))

theorem receivingFrame_data {m : Message} {i : Nat} (hi : i ≤ m.length.toNat) (s : State) :
    receivingFrame m s (i + 3) = receiving s (i + 3) m.type m.address m.length (m.data.take i) 0 := by
  rw [receivingFrame, if_pos hi]

theorem receivingFrame_crcLo (m : Message) (s : State) :
    receivingFrame m s (m.length.toNat + 4) =
      receiving s (m.length.toNat + 4) m.type m.address m.length m.data (setCrcHi 0 (crcHi m.crc)) := by
  rw [receivingFrame, if_neg (by omega), List.take_of_length_le (by rw [m.wf]; omega)]

/-- An open frame waits for its next byte. -/
theorem receivingFrame_parser {m : Message} {k : Nat} (h1 : 1 ≤ k) (hk : k < 5 + m.length.toNat) (s : State) :
    (receivingFrame m s k).pState = .collecting ∧ (receivingFrame m s k).pos.toNat = k := by
  have hlen := m.length.isLt
  have hpos : (BitVec.ofNat 9 k).toNat = k := toNat_ofNat_pos (by omega)
  match k, h1 with
  | 1, _ | 2, _ | _ + 3, _ => exact ⟨rfl, hpos⟩

/-- An open frame is in the parser registers and nowhere else. -/
theorem receivingFrame_keeps (m : Message) (s : State) (k : Nat) :
    (receivingFrame m s k).seen = s.seen ∧ (receivingFrame m s k).pend = s.pend ∧
    (receivingFrame m s k).b2h = s.b2h ∧ (receivingFrame m s k).h2b = s.h2b ∧
    (receivingFrame m s k).txMarker = s.txMarker ∧ (receivingFrame m s k).txLog = s.txLog ∧
    (receivingFrame m s k).errLog = s.errLog := by
  match k with
  | 0 | 1 | 2 | _ + 3 => exact ⟨rfl, rfl, rfl, rfl, rfl, rfl, rfl⟩

theorem frameWords_encodeFrame (m : Message) :
    frameWords (encodeFrame m) = mkWord true m.type :: mkWord false m.address :: mkWord false m.length ::
      (m.data.map (mkWord false) ++ [mkWord false (crcHi m.crc), mkWord false (crcLo m.crc)]) := by
  simp [encodeFrame_eq, frameWords]

/-! Each word in turn (41_parser.md R90, R91). -/

section Words

variable {m : Message} (s : State)

theorem exec_rxword_type : exec (.rxword (mkWord true m.type)) s = .next (receivingFrame m s 1) := by
  rw [exec_rxword, rxWord_of_marked (wordMarker_mkWord ..), wordByte_mkWord]
  rfl

theorem exec_rxword_address :
    exec (.rxword (mkWord false m.address)) (receivingFrame m s 1) = .next (receivingFrame m s 2) :=
  exec_rxword_pending (parserFeed_address rfl rfl m.address)

theorem exec_rxword_length :
    exec (.rxword (mkWord false m.length)) (receivingFrame m s 2) = .next (receivingFrame m s 3) := by
  rw [receivingFrame_data (Nat.zero_le _)]
  exact exec_rxword_pending (parserFeed_length rfl rfl m.length)

theorem exec_rxword_data {i : Nat} {b : Byte} (hb : m.data[i]? = some b) :
    exec (.rxword (mkWord false b)) (receivingFrame m s (i + 3)) = .next (receivingFrame m s (i + 4)) := by
  obtain ⟨hi, rfl⟩ := List.getElem?_eq_some_iff.mp hb
  have hlt : i < m.length.toNat := m.wf ▸ hi
  have hlen : (m.data.take i).length = i := List.length_take_of_le hi.le
  have hfeed := parserFeed_receiving_data s m.type m.address m.length m.data[i] (m.data.take i) 0 (by rwa [hlen])
  rw [hlen, List.take_concat_get' m.data i hi] at hfeed
  rw [receivingFrame_data hlt.le, receivingFrame_data (i := i + 1) hlt]
  exact exec_rxword_pending hfeed

theorem exec_rxword_crcHi :
    exec (.rxword (mkWord false (crcHi m.crc))) (receivingFrame m s (m.length.toNat + 3)) =
      .next (receivingFrame m s (m.length.toNat + 4)) := by
  have hall : m.data.take m.length.toNat = m.data := List.take_of_length_le m.wf.le
  rw [receivingFrame_data le_rfl, receivingFrame_crcLo, hall]
  exact exec_rxword_pending (parserFeed_receiving_crcHi ..)

/-- The last word hands the Message to `BUSFRAME`. -/
theorem exec_rxword_crcLo :
    exec (.rxword (mkWord false (crcLo m.crc))) (receivingFrame m s (m.length.toNat + 4)) =
      exec (.busframe m)
        { receiving s (m.length.toNat + 5) m.type m.address m.length m.data m.crc with pState := .idle } := by
  have hfeed := parserFeed_receiving_crcLo s m.type m.address m.length (crcLo m.crc) m.data
    (setCrcHi 0 (crcHi m.crc)) m.wf
  rw [setCrcLo_setCrcHi] at hfeed
  rw [receivingFrame_crcLo]
  exact exec_rxword_complete hfeed

end Words

/-- What a word of a frame carries, by its position (30_encoding.md R60, R63). -/
theorem frameWords_getElem?_cases {m : Message} {k : Nat} {w : Word9}
    (h : (frameWords (encodeFrame m))[k]? = some w) :
    (k = 0 ∧ w = mkWord true m.type) ∨ (k = 1 ∧ w = mkWord false m.address) ∨ (k = 2 ∧ w = mkWord false m.length) ∨
    (∃ i b, k = i + 3 ∧ m.data[i]? = some b ∧ w = mkWord false b) ∨
    (k = m.length.toNat + 3 ∧ w = mkWord false (crcHi m.crc)) ∨
    (k = m.length.toNat + 4 ∧ w = mkWord false (crcLo m.crc)) := by
  have hd := m.wf
  rw [frameWords_encodeFrame] at h
  match k with
  | 0 | 1 | 2 => simp_all
  | i + 3 =>
    simp only [List.getElem?_cons_succ, List.getElem?_append, List.length_map, hd, List.getElem?_map] at h
    split at h
    next hi =>
      obtain ⟨b, hb, rfl⟩ := Option.map_eq_some_iff.mp h
      exact .inr (.inr (.inr (.inl ⟨i, b, rfl, hb, rfl⟩)))
    next hi =>
      obtain ⟨j, rfl⟩ := Nat.exists_eq_add_of_le (Nat.not_lt.mp hi)
      rw [Nat.add_sub_cancel_left] at h
      match j with
      | 0 | 1 => simp_all
      | j + 2 => simp at h

theorem frameWords_encodeFrame_length (m : Message) :
    (frameWords (encodeFrame m)).length = m.length.toNat + 5 := by
  simp [frameWords_encodeFrame, m.wf]

theorem frameWords_getElem?_last (m : Message) :
    (frameWords (encodeFrame m))[m.length.toNat + 4]? = some (mkWord false (crcLo m.crc)) := by
  simp [frameWords_encodeFrame, ← m.wf]

/-- Every word of a frame but the last is stored, and the parser waits for the next one. -/
theorem exec_rxword_receivingFrame {m : Message} {k : Nat} {w : Word9} (hk : k < 4 + m.length.toNat)
    (hw : (frameWords (encodeFrame m))[k]? = some w) (s : State) :
    exec (.rxword w) (receivingFrame m s k) = .next (receivingFrame m s (k + 1)) := by
  obtain ⟨rfl, rfl⟩ | ⟨rfl, rfl⟩ | ⟨rfl, rfl⟩ | ⟨i, b, rfl, hb, rfl⟩ | ⟨rfl, rfl⟩ | ⟨rfl, rfl⟩ :=
    frameWords_getElem?_cases hw
  · exact exec_rxword_type s
  · exact exec_rxword_address s
  · exact exec_rxword_length s
  · exact exec_rxword_data s hb
  · exact exec_rxword_crcHi s
  · omega

theorem execAll_take_succ {ws : List Word9} {k : Nat} {w : Word9} {s t : State} (hw : ws[k]? = some w)
    (h : execAll ((ws.take k).map .rxword) s = .next t) :
    execAll ((ws.take (k + 1)).map .rxword) s = exec (.rxword w) t := by
  rw [List.take_add_one, hw, Option.toList_some, List.map_append, execAll_append h, List.map_singleton, execAll_singleton]

/-- No word of a frame but the last does anything besides filling the parser registers. -/
theorem execAll_take_frameWords {m : Message} {k : Nat} (hk : k < 5 + m.length.toNat) (s : State) :
    execAll (((frameWords (encodeFrame m)).take k).map .rxword) s = .next (receivingFrame m s k) := by
  induction k with
  | zero => rfl
  | succ k ih =>
    have hw := List.getElem?_eq_getElem (l := frameWords (encodeFrame m)) (i := k)
      (by rw [frameWords_encodeFrame_length]; omega)
    rw [execAll_take_succ hw (ih (by omega)), exec_rxword_receivingFrame (by omega) hw]

/-- The words of a frame, from any state, end in `BUSFRAME` of its Message (41_parser.md R94 (a)). -/
theorem execAll_frameWords (m : Message) (s : State) :
    execAll ((frameWords (encodeFrame m)).map .rxword) s =
      exec (.busframe m)
        { receiving s (m.length.toNat + 5) m.type m.address m.length m.data m.crc with pState := .idle } := by
  have hlen := frameWords_encodeFrame_length m
  calc execAll ((frameWords (encodeFrame m)).map .rxword) s
      = execAll (((frameWords (encodeFrame m)).take (m.length.toNat + 5)).map .rxword) s := by
        rw [List.take_of_length_le hlen.le]
    _ = exec (.rxword (mkWord false (crcLo m.crc))) (receivingFrame m s (m.length.toNat + 4)) :=
        execAll_take_succ (frameWords_getElem?_last m) (execAll_take_frameWords (by omega) s)
    _ = _ := exec_rxword_crcLo s

/-- Settles O23: the words before the last fill the parser registers and do nothing else; the last completes the frame. -/
theorem frameWordsDeliverTheMessage : Obligations.FrameWordsDeliverTheMessage := by
  intro m s
  refine ⟨?_, fun k hk => ⟨receivingFrame m s k, execAll_take_frameWords hk s, fun h1 => receivingFrame_parser h1 hk s,
    receivingFrame_keeps m s k⟩⟩
  rw [execAll_frameWords, ← m.wf, Nat.add_comm 5]
  rfl

end Sys2Proof.Machine

/-! ## The framing gate (42_framing_gate.md) -/

namespace Sys2Proof.Machine

theorem toNat_mkWord (k : Bool) (b : Byte) : (mkWord k b).toNat = (BitVec.ofBool k).toNat <<< 8 ||| b.toNat :=
  BitVec.toNat_append _ _

/-- A marked word is its byte with bit 8 set (30_encoding.md R63, R64). -/
theorem mkWord_true (b : Byte) : mkWord true b = 0x100#9 ||| b.setWidth 9 := by
  have hlt : b.toNat < 512 := b.isLt.trans (by decide)
  apply BitVec.eq_of_toNat_eq
  simp [toNat_mkWord, Nat.mod_eq_of_lt hlt]

/-- An unmarked word is its byte with bit 8 clear (30_encoding.md R63, R64). -/
theorem mkWord_false (b : Byte) : mkWord false b = b.setWidth 9 := by
  have hlt : b.toNat < 512 := b.isLt.trans (by decide)
  apply BitVec.eq_of_toNat_eq
  simp [toNat_mkWord, Nat.mod_eq_of_lt hlt]

/-- The events of a frame as words: `mkWord` written out bit for bit (42_framing_gate.md R102). -/
theorem frameEvents_cons (f0 : Byte) (rest : List Byte) :
    frameEvents (f0 :: rest) =
      [.word (0x100#9 ||| f0.setWidth 9), .drain] ++ rest.map (fun b => .word (b.setWidth 9)) ++ [.drain] := by
  simp only [frameEvents, mkWord_true, mkWord_false, List.cons_append, List.nil_append]

theorem exec_txframe (f0 f1 : Byte) (rest : List Byte) (s : State) :
    exec (.txframe f0 f1 rest) s = .next (txFrame (f0 :: f1 :: rest) (beginOp s)) := rfl

/-- Settles O28: `TXFRAME` appends the events of its frame, and these are the marked first word and unmarked others. -/
theorem txframeMarksOnlyTheFirstByte : Obligations.TxframeMarksOnlyTheFirstByte := by
  intro f0 f1 rest s events
  have hevents : frameEvents (f0 :: f1 :: rest) = events := frameEvents_cons f0 (f1 :: rest)
  rw [exec_txframe, txFrame_eq _ (List.cons_ne_nil _ _), hevents]
  rfl

/-- `FEED` stores no return value of its own: the operation that runs it does. -/
theorem parserFeed_keeps_ret (b : Byte) (s : State) : (parserFeed b s).2.outcome.ret = s.outcome.ret := by
  obtain ⟨_, e⟩ | ⟨_, _, _, _, _, _, _, ⟨e, _⟩ | e⟩ := parserFeed_cases b s <;> rw [e]
  rfl

/-- The byte that completes a frame raises nothing (41_parser.md R91). -/
theorem parserFeed_complete_keeps_outcome {b : Byte} {s : State} {m : Message}
    (h : (parserFeed b s).1 = .complete m) : (parserFeed b s).2.outcome = s.outcome := by
  obtain ⟨_, e⟩ | ⟨_, _, _, _, _, _, _, ⟨e, _⟩ | e⟩ := parserFeed_cases b s
  · rw [e] at h
    cases h
  · rw [e]
  · rw [e]

/-- An operation begun after one that left no report, no transmission and whatever value, begins on its state. -/
theorem beginOp_returns_of_fresh {s : State} (h : s.outcome = ⟨[], [], .nothing⟩) (r : Ret) :
    beginOp (returns r s) = s := by
  unfold beginOp returns
  rw [← h]

/-- A completed frame passes from `FEED` to `BUSFRAME` within `RXWORD` (42_framing_gate.md R100). -/
theorem exec_busframe_after_feed {w : Word9} (hw : wordMarker w = false) {s : State} {m : Message}
    (h : (parserFeed (wordByte w) (beginOp s)).1 = .complete m) (r : Ret) :
    exec (.busframe m) (returns r (parserFeed (wordByte w) (beginOp s)).2) = exec (.rxword w) s := by
  have hfresh : (parserFeed (wordByte w) (beginOp s)).2.outcome = ⟨[], [], .nothing⟩ :=
    (parserFeed_complete_keeps_outcome h).trans (beginOp_outcome s)
  rw [exec_busframe, exec_rxword, beginOp_returns_of_fresh hfresh, rxWord_of_complete hw h]

/-- Settles O27: `START` on a marked word; `FEED` on an unmarked one, split by whether it completes a frame. -/
theorem rxwordStartsOrFeeds : Obligations.RxwordStartsOrFeeds := by
  intro w s
  refine ⟨fun hw => ?marked, fun hw => ?unmarked⟩
  case marked =>
    rw [exec_rxword, rxWord_of_marked hw]
    rfl
  case unmarked =>
    refine ⟨_, _, _, exec_feed rfl, rfl, exec_rxword w s, fun m hm => ?complete, fun hne => ?other⟩
    case complete => exact (exec_busframe_after_feed hw hm _).trans (exec_rxword w s)
    case other =>
      have hret : (parserFeed (wordByte w) (beginOp s)).2.outcome.ret = .nothing := parserFeed_keeps_ret _ _
      rw [rxWord_of_not_complete hw hne]
      unfold returns
      rw [← hret]
      rfl

end Sys2Proof.Machine

/-! ## The bus relay (43_bus_relay.md)

### The operations one by one -/

namespace Sys2Proof.Machine

theorem exec_poll (a : Byte) (s : State) : exec (.poll a) s = .next (pollAddress a (beginOp s)) := rfl

theorem exec_enq (m : Message) (s : State) :
    exec (.enq m) s = .next (enqWith Config.seenOnFull m (beginOp s)) := rfl

theorem exec_seenins (a : Byte) (s : State) : exec (.seenins a) s = .next (seenInsert a (beginOp s)) := rfl

theorem exec_defresp (a : Byte) (s : State) :
    exec (.defresp a) s = .next { s with outcome := ⟨[], [], .message (defResp a)⟩ } := rfl

theorem exec_pendtake (a : Byte) (s : State) :
    exec (.pendtake a) s = .next { s with
      pend := s.pend.eraseP (fun m => m.address == a),
      outcome := ⟨[], [], .optMessage (s.pend.find? (fun m => m.address == a))⟩ } := by
  rw [exec, execPendtake, runRet_eq, pendTake_eq]
  rfl

/-- The reports of the relay to the host: the Message is lost when `b2h` is full (43_bus_relay.md R110). -/
def relayReports (m : Message) (s : State) : List ErrEntry :=
  if s.b2h.length = 100 then [⟨.busframe, .queueFull .b2h m⟩] else []

/-- `s` with `m` relayed to the host, or reported lost, by an operation that has done nothing else. -/
def relayed (m : Message) (s : State) : State :=
  { s with
    b2h := if s.b2h.length = 100 then s.b2h else s.b2h ++ [m],
    errLog := s.errLog ++ relayReports m s,
    outcome := ⟨relayReports m s, [], .nothing⟩ }

/-- A CRC-valid frame is relayed before its action runs, whether or not `b2h` had room (43_bus_relay.md R110). -/
theorem busFrameThen_beginOp {m : Message} (hv : verify m = true) (f : State → State) (s : State) :
    busFrameThen m f (beginOp s) = f (relayed m s) := by
  by_cases hr : s.b2h.length = 100
  · rw [busFrameThen_full (s := beginOp s) hv hr, relayed, relayReports, if_pos hr, if_pos hr]
    rfl
  · rw [busFrameThen_room (s := beginOp s) hv hr, relayed, relayReports, if_neg hr, if_neg hr, List.append_nil]
    rfl

/-- Settles O29: a bad CRC is reported in place of everything else. -/
theorem busframeDropsBadCrc : Obligations.BusframeDropsBadCrc := by
  intro m s hv
  rw [exec_busframe, busFrame, busFrameThen_bad hv]
  rfl

/-- Settles O30: of a frame that is no poll nothing is left to do after the relay. -/
theorem busframeRelaysOtherTypes : Obligations.BusframeRelaysOtherTypes := by
  intro m s hv ht
  have hrelay : exec (.busframe m) s = .next (relayed m s) := by
    rw [exec_busframe, busFrame_of_not_poll ht, busFrameThen_beginOp hv, id]
  rw [hrelay]
  refine ⟨fun hroom => ?_, fun hfull => ?_⟩
  · rw [relayed, relayReports, if_neg hroom, if_neg hroom, List.append_nil]
  · rw [relayed, relayReports, if_pos hfull, if_pos hfull]

/-- Settles O31: after the relay `POLL` runs, which reads none of the fields the relay wrote. -/
theorem busframeAnswersPolls : Obligations.BusframeAnswersPolls := by
  intro m s hv ht errs u events
  have hpoll : exec (.busframe m) s = .next (pollAddress m.address u) := by
    rw [exec_busframe, busFrame_of_poll ht, busFrameThen_beginOp hv]
    rfl
  rw [hpoll]
  refine ⟨fun hseen => ?_, fun hseen => ?_⟩
  · rw [pollAddress_unseen (s := u) hseen]
  · rw [pollAddress_seen (s := u) hseen]
    rfl

/-- Settles O32: the two cases of `POLL`, on a fresh outcome. -/
theorem pollTransmitsOneFrame : Obligations.PollTransmitsOneFrame := by
  intro a s events
  rw [exec_poll]
  refine ⟨fun hseen => ?_, fun hseen => ?_⟩
  · rw [pollAddress_unseen (s := beginOp s) hseen]
    rfl
  · rw [pollAddress_seen (s := beginOp s) hseen]
    rfl

/-- Settles O33: `SEENINS` follows the append and does not read `pend`. -/
theorem enqAppendsAndMarksSeen : Obligations.EnqAppendsAndMarksSeen := by
  intro m s hroom
  rw [exec_enq, enqWith_room (s := beginOp s) hroom, seenInsert_eq]
  rfl

/-- `ENQ` on a full `pend`: the report, and the `SEENINS` that `SEEN_ON_FULL` asks for (43_bus_relay.md R112). -/
theorem enqWith_full_eq {s : State} (h : s.pend.length = 100) (k : Bool) (m : Message) :
    enqWith k m s = { s with
      seen := if k then if m.address ∈ s.seen ∨ s.seen.length = 10 then s.seen else s.seen ++ [m.address] else s.seen,
      errLog := s.errLog ++ [⟨.enq, .queueFull .pend m⟩],
      outcome := { s.outcome with errs := s.outcome.errs ++ [⟨.enq, .queueFull .pend m⟩] } } := by
  rw [enqWith_full h, seenInsert_eq]
  cases k <;> rfl

/-- Settles O34: the report does not depend on `SEEN_ON_FULL`; `exec` takes the open constant for it. -/
theorem enqOnFullQueue : Obligations.EnqOnFullQueue := by
  intro m s hfull e marked
  refine ⟨fun k => enqWith_full_eq hfull k m, ?_⟩
  rw [exec_enq, enqWith_full_eq (s := beginOp s) hfull]
  rfl

/-- Settles O35: the three cases of `SEENINS`, each of which decides the test `seenInsert_eq` states. -/
theorem seeninsIsIdempotentAndBounded : Obligations.SeeninsIsIdempotentAndBounded := by
  intro a s
  rw [exec_seenins, seenInsert_eq, beginOp_seen]
  refine ⟨fun hseen => ?_, fun _ hfull => ?_, fun hnew hroom => ?_⟩
  · rw [if_pos (.inl hseen)]
    rfl
  · rw [if_pos (.inr hfull)]
    rfl
  · rw [if_neg (not_or.mpr ⟨hnew, hroom⟩)]
    rfl

/-- The body of the default response is that of its template: the CRC field is no part of it. -/
theorem verify_defResp (a : Byte) : verify (defResp a) = true :=
  verify_iff.mpr rfl

/-- Settles O36: the template's fields, and the CRC of its body. -/
theorem defrespFillsTheTemplate : Obligations.DefrespFillsTheTemplate :=
  fun a s => ⟨defResp a, exec_defresp a s, rfl, rfl, rfl, rfl, rfl, verify_defResp a⟩

/-- Settles O37: the library's first match and its removal, on a list cut at the first match. -/
theorem pendtakeRemovesTheFirstMatch : Obligations.PendtakeRemovesTheFirstMatch := by
  intro a s
  have hmiss : ∀ l : List Message, (∀ m ∈ l, m.address ≠ a) → ∀ m ∈ l, ¬ (m.address == a) = true :=
    fun l h m hm => mt beq_iff_eq.mp (h m hm)
  rw [exec_pendtake]
  refine ⟨fun hnone => ?_, fun before q after hpend hbefore hq => ?_⟩
  · rw [List.eraseP_of_forall_not (hmiss _ hnone), List.find?_eq_none.mpr (hmiss _ hnone)]
  · have hhit : (q.address == a) = true := beq_iff_eq.mpr hq
    have hfound : s.pend.find? (fun m => m.address == a) = some q :=
      List.find?_eq_some_iff_append.mpr ⟨hhit, before, after, hpend, by simpa using hbefore⟩
    have hleft : s.pend.eraseP (fun m => m.address == a) = before ++ after := by
      rw [hpend, List.eraseP_append_right _ (hmiss _ hbefore)]
      exact congrArg (before ++ ·) (List.eraseP_cons_of_pos hhit)
    rw [hfound, hleft]

/-! ### `seen` only grows -/

/-- `seen` of `t` continues that of `s`, and is that of `s` if that was full (43_bus_relay.md R116 (f)). -/
def SeenGrows (s t : State) : Prop :=
  s.seen <+: t.seen ∧ (s.seen.length = 10 → t.seen = s.seen)

theorem SeenGrows.of_eq {s t : State} (h : t.seen = s.seen) : SeenGrows s t :=
  ⟨h ▸ List.prefix_rfl, fun _ => h⟩

theorem seenGrows_seenInsert (a : Byte) (s : State) : SeenGrows s (seenInsert a s) := by
  rw [seenInsert_eq]
  refine ⟨?_, fun hfull => if_pos (.inr hfull)⟩
  dsimp only
  split
  · exact List.prefix_rfl
  · exact List.prefix_append ..

/-! What writes `seen` is `SEENINS` alone; the others leave it. -/

theorem insertOrRaise_keeps_seen (who : Op) (q : QueueId) (m : Message) (s : State) :
    (insertOrRaise who q m s).2.seen = s.seen := by
  obtain ⟨_, e⟩ | ⟨_, e⟩ := insertOrRaise_cases who q m s <;> simp [e]

theorem popHead_keeps_seen (q : FifoId) (s : State) : (popHead q s).2.seen = s.seen :=
  writeQueue_seen ..

theorem tryInsert_keeps_seen (q : QueueId) (m : Message) (s : State) : (tryInsert q m s).2.seen = s.seen :=
  writeQueue_seen ..

theorem txFrame_keeps_seen {f : List Byte} (hf : f ≠ []) (s : State) : (txFrame f s).seen = s.seen := by
  rw [txFrame_eq f hf]

theorem pollAddress_keeps_seen (a : Byte) (s : State) : (pollAddress a s).seen = s.seen := by
  by_cases h : a ∈ s.seen
  · rw [pollAddress_seen h]
  · rw [pollAddress_unseen h]

theorem busFrameThen_keeps_seen (m : Message) {f : State → State} (hf : ∀ u, (f u).seen = u.seen) (s : State) :
    (busFrameThen m f s).seen = s.seen := by
  obtain ⟨_, e⟩ | ⟨_, _, e⟩ | ⟨_, _, e⟩ := busFrameThen_cases m f s <;> simp [e, hf]

theorem busFrame_keeps_seen (m : Message) (s : State) : (busFrame m s).seen = s.seen := by
  by_cases ht : m.type = Config.typePoll
  · rw [busFrame_of_poll ht, busFrameThen_keeps_seen m (pollAddress_keeps_seen _)]
  · exact busFrame_of_not_poll ht ▸ busFrameThen_keeps_seen m (f := id) (fun _ => rfl) s

theorem parserFeed_keeps_seen (b : Byte) (s : State) : (parserFeed b s).2.seen = s.seen :=
  (parserFeed_keeps_queues b s).1

theorem rxWord_keeps_seen (w : Word9) (s : State) : (rxWord w s).seen = s.seen := by
  have hfed := parserFeed_keeps_seen (wordByte w) s
  obtain ⟨_, e⟩ | ⟨_, m, t, hm, e⟩ | ⟨_, _, e⟩ := rxWord_cases w s <;> rw [e]
  · exact parserStart_seen ..
  · rw [hm] at hfed
    exact (busFrame_keeps_seen m t).trans hfed
  · exact hfed

theorem submitAccepted_keeps_seen (m : Message) (s : State) : (submitAccepted m s).2.seen = s.seen := by
  rw [submitAccepted_snd, insertOrRaise_keeps_seen]

theorem hostSubmit_keeps_seen (m : Message) (s : State) : (hostSubmit m s).2.seen = s.seen := by
  unfold hostSubmit
  split
  · exact submitAccepted_keeps_seen m s
  · rfl

theorem hostPop_keeps_seen (s : State) : (hostPop s).2.seen = s.seen := by
  rw [hostPop_snd, popHead_keeps_seen]

theorem seenGrows_enqWith (k : Bool) (m : Message) (s : State) : SeenGrows s (enqWith k m s) := by
  by_cases hr : s.pend.length = 100
  · rw [enqWith_full hr]
    split
    · exact seenGrows_seenInsert m.address (raise .enq (.queueFull .pend m) s)
    · exact .of_eq (raise_seen ..)
  · rw [enqWith_room hr]
    exact seenGrows_seenInsert m.address { s with pend := s.pend ++ [m] }

theorem seenGrows_hostDrain (s : State) : SeenGrows s (hostDrain s) := by
  cases h : s.h2b with
  | nil => rw [hostDrain_nil h]; exact .of_eq rfl
  | cons m rest => rw [hostDrain_cons h]; exact seenGrows_enqWith _ m { s with h2b := rest }

/-- Every operation ends, and its `seen` grows: by `SEENINS` in `ENQ`, `SEENINS` and `HDRAIN`, in no other. -/
theorem seenGrows_exec (s : State) : ∀ i : Instr, ∃ t, exec i s = .next t ∧ SeenGrows s t
  | .crc16 _ | .encode _ | .decode _ | .computecrc _ | .verify _ | .defresp _ | .hexline _ | .start _
  | .tPoll .host _ | .tOther .host _ => ⟨_, rfl, .of_eq rfl⟩
  | .feed b => ⟨_, rfl, .of_eq (parserFeed_keeps_seen b (beginOp s))⟩
  | .rxword w => ⟨_, rfl, .of_eq (rxWord_keeps_seen w (beginOp s))⟩
  | .txframe _ _ _ => ⟨_, rfl, .of_eq (txFrame_keeps_seen (List.cons_ne_nil _ _) (beginOp s))⟩
  | .busframe m => ⟨_, rfl, .of_eq (busFrame_keeps_seen m (beginOp s))⟩
  | .poll a => ⟨_, rfl, .of_eq (pollAddress_keeps_seen a (beginOp s))⟩
  | .enq m => ⟨_, rfl, seenGrows_enqWith _ m (beginOp s)⟩
  | .seenins a => ⟨_, rfl, seenGrows_seenInsert a (beginOp s)⟩
  | .pendtake _ => ⟨_, rfl, .of_eq rfl⟩
  | .tryinsert q m => ⟨_, rfl, .of_eq (tryInsert_keeps_seen q m (beginOp s))⟩
  | .pophead q => ⟨_, rfl, .of_eq (popHead_keeps_seen q (beginOp s))⟩
  | .hsubmit m => ⟨_, rfl, .of_eq (hostSubmit_keeps_seen m (beginOp s))⟩
  | .hdrain => ⟨_, rfl, seenGrows_hostDrain (beginOp s)⟩
  | .hpop => ⟨_, rfl, .of_eq (hostPop_keeps_seen (beginOp s))⟩
  | .tPoll .bus m => ⟨_, rfl, .of_eq (busFrameThen_keeps_seen m (pollAddress_keeps_seen _) (beginOp s))⟩
  | .tData .bus m | .tOther .bus m =>
    ⟨_, rfl, .of_eq (busFrameThen_keeps_seen m (fun _ => rfl) (beginOp s))⟩
  | .tData .host m => ⟨_, rfl, .of_eq (by
      rw [returns_seen]
      split
      · exact submitAccepted_keeps_seen m (beginOp s)
      · rfl)⟩

/-- Settles O48: the set changes by `SEENINS` only, which appends to a set that is not full. -/
theorem seenOnlyGrows : Obligations.SeenOnlyGrows := by
  intro i s t h
  obtain ⟨u, hu, hgrows⟩ := seenGrows_exec s i
  obtain rfl := Host.Outcome.next.inj (hu.symm.trans h)
  exact hgrows

/-! ### What is transmitted -/

theorem acceptable_defResp (a : Byte) : Acceptable (defResp a) :=
  ⟨verify_defResp a, rfl⟩

/-- A poll is answered with an entry of `pend` or with the default response, so with an acceptable Message. -/
theorem acceptable_pollReply {l : List Message} (h : ∀ m ∈ l, Acceptable m) (a : Byte) : Acceptable (pollReply a l) := by
  unfold pollReply
  cases hfind : l.find? (fun m => m.address == a) with
  | none => exact acceptable_defResp a
  | some q => exact h q (List.mem_of_find?_eq_some hfind)

theorem insertOrRaise_keeps_tx (who : Op) (q : QueueId) (m : Message) (s : State) :
    (insertOrRaise who q m s).2.outcome.tx = s.outcome.tx := by
  obtain ⟨_, e⟩ | ⟨_, e⟩ := insertOrRaise_cases who q m s <;> simp [e]

theorem seenInsert_keeps_outcome (a : Byte) (s : State) : (seenInsert a s).outcome = s.outcome := by
  rw [seenInsert_eq]

theorem enqWith_keeps_tx (k : Bool) (m : Message) (s : State) : (enqWith k m s).outcome.tx = s.outcome.tx := by
  by_cases hr : s.pend.length = 100
  · rw [enqWith_full hr]
    split
    · rw [seenInsert_keeps_outcome, raise_outcome]
    · rw [raise_outcome]
  · rw [enqWith_room hr, seenInsert_keeps_outcome]

theorem hostSubmit_keeps_tx (m : Message) (s : State) : (hostSubmit m s).2.outcome.tx = s.outcome.tx := by
  unfold hostSubmit
  split
  · rw [submitAccepted_snd, insertOrRaise_keeps_tx]
  · rfl

theorem hostDrain_keeps_tx (s : State) : (hostDrain s).outcome.tx = s.outcome.tx := by
  cases h : s.h2b with
  | nil => rw [hostDrain_nil h]
  | cons m rest => rw [hostDrain_cons h, enqueue, enqWith_keeps_tx]

theorem hostPop_keeps_tx (s : State) : (hostPop s).2.outcome.tx = s.outcome.tx := by
  rw [hostPop_snd_eq_tail, writeQueue_outcome]

theorem parserFeed_keeps_tx (b : Byte) (s : State) : (parserFeed b s).2.outcome.tx = s.outcome.tx := by
  obtain ⟨_, e⟩ | ⟨_, _, _, _, _, _, _, ⟨e, _⟩ | e⟩ := parserFeed_cases b s <;> rw [e]
  rfl

/-- From `s` to `t` nothing went out, or one answer to a poll, taken from `pend` of `s`. -/
def TransmitsReply (s t : State) : Prop :=
  t.outcome.tx = s.outcome.tx ∨
  ∃ a, t.outcome.tx = s.outcome.tx ++ frameEvents (encodeFrame (pollReply a s.pend))

theorem transmitsReply_pollAddress (a : Byte) (s : State) : TransmitsReply s (pollAddress a s) := by
  by_cases h : a ∈ s.seen
  · rw [pollAddress_seen h]
    exact .inr ⟨a, rfl⟩
  · rw [pollAddress_unseen h]
    exact .inl rfl

theorem transmitsReply_busFrame (m : Message) (s : State) : TransmitsReply s (busFrame m s) := by
  have haction : ∀ u, TransmitsReply u (if m.type = Config.typePoll then pollAddress m.address u else u) := by
    intro u
    split
    · exact transmitsReply_pollAddress m.address u
    · exact .inl rfl
  unfold busFrame
  obtain ⟨_, e⟩ | ⟨_, _, e⟩ | ⟨_, _, e⟩ := busFrameThen_cases m _ s <;> rw [e]
  · exact .inl rfl
  · exact haction (raise .busframe (.queueFull .b2h m) s)
  · exact haction (writeQueue .b2h (s.b2h ++ [m]) s)

theorem transmitsReply_rxWord (w : Word9) (s : State) : TransmitsReply s (rxWord w s) := by
  have htx := parserFeed_keeps_tx (wordByte w) s
  obtain ⟨-, hpend, -⟩ := parserFeed_keeps_queues (wordByte w) s
  obtain ⟨_, e⟩ | ⟨_, m, t, hm, e⟩ | ⟨_, _, e⟩ := rxWord_cases w s <;> rw [e]
  · exact .inl rfl
  · rw [hm] at htx hpend
    have hframe := transmitsReply_busFrame m t
    unfold TransmitsReply at hframe
    rwa [htx, hpend] at hframe
  · exact .inl htx

/-- Settles O52: only a received word transmits, and what it sends is an answer to a poll, which is acceptable when the
entries of `pend` are (10_state.md R29 (d)). -/
theorem transmittedFramesAreValid : Obligations.TransmittedFramesAreValid := by
  intro i s t hinv hext h
  obtain ⟨w, rfl⟩ | ⟨m, rfl⟩ | rfl | rfl := external_cases hext
  · obtain rfl := Host.Outcome.next.inj ((exec_rxword w s).symm.trans h)
    obtain hnone | ⟨a, hreply⟩ := transmitsReply_rxWord w (beginOp s)
    · exact .inl hnone
    · obtain ⟨hvalid, htype⟩ := acceptable_pollReply hinv.pend_acceptable a
      exact .inr ⟨_, hvalid, htype, hreply⟩
  · obtain rfl := Host.Outcome.next.inj ((exec_hsubmit m s).symm.trans h)
    exact .inl (hostSubmit_keeps_tx m (beginOp s))
  · obtain rfl := Host.Outcome.next.inj ((exec_hdrain s).symm.trans h)
    exact .inl (hostDrain_keeps_tx (beginOp s))
  · obtain rfl := Host.Outcome.next.inj ((exec_hpop s).symm.trans h)
    exact .inl (hostPop_keeps_tx (beginOp s))

/-! ### Submissions beyond the capacity of `h2b` -/

/-- What `HSUBMIT` of an acceptable Message does to `h2b` and to `err_log` (44_queue_bridge.md R121). -/
theorem exec_hsubmit_acceptable {m : Message} (hm : Acceptable m) (s : State) :
    ∃ t, exec (.hsubmit m) s = .next t ∧
      ((s.h2b.length = 100 ∧ t.h2b = s.h2b ∧ t.errLog = s.errLog ++ [⟨.hsubmit, .queueFull .h2b m⟩]) ∨
        (s.h2b.length ≠ 100 ∧ t.h2b = s.h2b ++ [m] ∧ t.errLog = s.errLog)) := by
  refine ⟨_, exec_hsubmit m s, ?_⟩
  rw [hostSubmit, if_pos hm, submitAccepted_snd]
  obtain ⟨hfull, e⟩ | ⟨hroom, e⟩ := insertOrRaise_cases .hsubmit .h2b m (beginOp s) <;> rw [e]
  · exact .inl ⟨hfull, rfl, rfl⟩
  · exact .inr ⟨hroom, rfl, rfl⟩

/-- Submitted Messages line up behind those that wait; those beyond the 100th place are reported, in order. -/
theorem execAll_hsubmit (ms : List Message) (s : State) (hs : s.h2b.length ≤ 100) (hms : ∀ m ∈ ms, Acceptable m) :
    ∃ t, execAll (ms.map .hsubmit) s = .next t ∧ t.h2b = (s.h2b ++ ms).take 100 ∧
      t.errLog = s.errLog ++ ((s.h2b ++ ms).drop 100).map (fun m => ⟨.hsubmit, .queueFull .h2b m⟩) := by
  induction ms generalizing s with
  | nil => exact ⟨s, rfl, by simp [List.take_of_length_le hs], by simp [List.drop_of_length_le hs]⟩
  | cons m ms ih =>
    obtain ⟨hm, hrest⟩ := List.forall_mem_cons.mp hms
    obtain ⟨u, hu, ⟨hfull, hq, he⟩ | ⟨hroom, hq, he⟩⟩ := exec_hsubmit_acceptable hm s
    · obtain ⟨t, ht, htq, hte⟩ := ih u (hq ▸ hs) hrest
      refine ⟨t, by rw [List.map_cons, execAll_cons hu, ht], ?_, ?_⟩
      · rw [htq, hq, List.take_left' hfull, List.take_left' hfull]
      · rw [hte, he, hq, List.drop_left' hfull, List.drop_left' hfull, List.append_assoc]
        rfl
    · have hline : u.h2b ++ ms = s.h2b ++ m :: ms := by rw [hq, List.append_assoc, List.singleton_append]
      obtain ⟨t, ht, htq, hte⟩ := ih u (by rw [hq, List.length_append, List.length_singleton]; omega) hrest
      rw [hline] at htq hte
      exact ⟨t, by rw [List.map_cons, execAll_cons hu, ht], htq, he ▸ hte⟩

/-- Settles O55: the line behind an empty `h2b` is the list submitted. -/
theorem submitKeepsTheFirstHundred : Obligations.SubmitKeepsTheFirstHundred := by
  intro ms s hempty hms
  obtain ⟨t, ht, hq, he⟩ := execAll_hsubmit ms s (by simp [hempty]) hms
  rw [hempty, List.nil_append] at hq he
  exact ⟨t, ht, hq, he⟩

end Sys2Proof.Machine

/-! ## The bridge between bus and host (44_queue_bridge.md)

### The queue primitives -/

namespace Sys2Proof.Machine

@[simp] theorem readQueue_beginOp (q : QueueId) (s : State) : readQueue q (beginOp s) = readQueue q s := by
  cases q <;> rfl

/-- A value returned does not touch a queue, so it may as well be returned before the queue is written. -/
theorem returns_writeQueue (r : Ret) (q : QueueId) (l : List Message) (s : State) :
    returns r (writeQueue q l s) = writeQueue q l (returns r s) := by
  cases q <;> rfl

theorem returns_beginOp (r : Ret) (s : State) : returns r (beginOp s) = { s with outcome := ⟨[], [], r⟩ } := rfl

theorem exec_tryinsert (q : QueueId) (m : Message) (s : State) :
    exec (.tryinsert q m) s =
      .next (returns (.insert (tryInsert q m (beginOp s)).1) (tryInsert q m (beginOp s)).2) := rfl

theorem exec_tryinsert_full {q : QueueId} {s : State} (h : (readQueue q s).length = 100) (m : Message) :
    exec (.tryinsert q m) s = .next { s with outcome := ⟨[], [], .insert .full⟩ } := by
  have hfull : (readQueue q (beginOp s)).length = queueCap q := by rw [readQueue_beginOp, queueCap_eq, h]
  rw [exec_tryinsert, tryInsert_full hfull, returns_beginOp]

theorem exec_tryinsert_room {q : QueueId} {s : State} (h : (readQueue q s).length ≠ 100) (m : Message) :
    exec (.tryinsert q m) s =
      .next (writeQueue q (readQueue q s ++ [m]) { s with outcome := ⟨[], [], .insert .ok⟩ }) := by
  have hroom : (readQueue q (beginOp s)).length ≠ queueCap q := by rwa [readQueue_beginOp, queueCap_eq]
  rw [exec_tryinsert, tryInsert_ok hroom, returns_writeQueue, readQueue_beginOp, returns_beginOp]

/-- Settles O38: the two branches of the capacity test. -/
theorem tryinsertRefusesAtCapacity : Obligations.TryinsertRefusesAtCapacity :=
  fun _ m _ => ⟨fun hfull => exec_tryinsert_full hfull m, fun hroom => exec_tryinsert_room hroom m⟩

/-- `TRYINSERT` puts the Message at the end of the line and cuts the line at the capacity: on a full queue what the cut
takes off is the new Message (44_queue_bridge.md R120). -/
theorem exec_tryinsert_take {q : QueueId} {s : State} (h : (readQueue q s).length ≤ 100) (m : Message) :
    ∃ t, exec (.tryinsert q m) s = .next t ∧ readQueue q t = (readQueue q s ++ [m]).take 100 := by
  by_cases hfull : (readQueue q s).length = 100
  · refine ⟨_, exec_tryinsert_full hfull m, ?_⟩
    rw [List.take_left' hfull]
    cases q <;> rfl
  · refine ⟨_, exec_tryinsert_room hfull m, ?_⟩
    have hshort : (readQueue q s ++ [m]).length ≤ 100 := by rw [List.length_append, List.length_singleton]; omega
    rw [readQueue_writeQueue, List.take_of_length_le hshort]

/-- Cutting a line before more joins it makes no difference to its first `n`. -/
theorem take_take_append {α : Type} (n : Nat) (l more : List α) : (l.take n ++ more).take n = (l ++ more).take n := by
  rw [List.take_append, List.take_append, List.take_take, Nat.min_self, List.length_take]
  congr 2
  omega

theorem execAll_tryinsert (q : QueueId) (ms : List Message) (s : State) (h : (readQueue q s).length ≤ 100) :
    ∃ t, execAll (ms.map (.tryinsert q)) s = .next t ∧ readQueue q t = (readQueue q s ++ ms).take 100 := by
  induction ms generalizing s with
  | nil => exact ⟨s, rfl, by rw [List.append_nil, List.take_of_length_le h]⟩
  | cons m ms ih =>
    obtain ⟨u, hu, hqu⟩ := exec_tryinsert_take h m
    obtain ⟨t, ht, hqt⟩ := ih u (hqu ▸ List.length_take_le 100 _)
    refine ⟨t, by rw [List.map_cons, execAll_cons hu, ht], ?_⟩
    rw [hqt, hqu, take_take_append, List.append_assoc, List.singleton_append]

/-- Settles O56: the line behind an empty queue is the list inserted. -/
theorem tryinsertKeepsTheFirstHundred : Obligations.TryinsertKeepsTheFirstHundred := by
  intro q ms s hempty
  obtain ⟨t, ht, hq⟩ := execAll_tryinsert q ms s (by simp [hempty])
  rw [hempty, List.nil_append] at hq
  exact ⟨t, ht, hq⟩

theorem exec_pophead (q : FifoId) (s : State) :
    exec (.pophead q) s = .next (returns (.optMessage (popHead q (beginOp s)).1) (popHead q (beginOp s)).2) := rfl

theorem exec_pophead_nil {q : FifoId} {s : State} (h : readQueue (fifoQueue q) s = []) :
    exec (.pophead q) s = .next { s with outcome := ⟨[], [], .optMessage none⟩ } := by
  rw [exec_pophead, popHead_nil ((readQueue_beginOp _ s).trans h), returns_beginOp]

theorem exec_pophead_cons {q : FifoId} {s : State} {m : Message} {rest : List Message}
    (h : readQueue (fifoQueue q) s = m :: rest) :
    exec (.pophead q) s =
      .next (writeQueue (fifoQueue q) rest { s with outcome := ⟨[], [], .optMessage (some m)⟩ }) := by
  rw [exec_pophead, popHead_cons ((readQueue_beginOp _ s).trans h), returns_writeQueue, returns_beginOp]

/-- Settles O39: both cases of `POPHEAD`, at each of the two FIFOs. -/
theorem popheadTakesTheOldest : Obligations.PopheadTakesTheOldest :=
  fun _ => ⟨exec_pophead_nil (q := .b2h), exec_pophead_nil (q := .h2b),
    fun _ _ => exec_pophead_cons (q := .b2h), fun _ _ => exec_pophead_cons (q := .h2b)⟩

/-! ### The host side -/

theorem hostSubmit_of_not_acceptable {m : Message} (h : ¬ Acceptable m) (s : State) :
    hostSubmit m s = (.submit .rejected, s) :=
  if_neg h

theorem hostSubmit_of_acceptable {m : Message} (h : Acceptable m) (s : State) : hostSubmit m s = submitAccepted m s :=
  if_pos h

theorem submitAccepted_full {s : State} (h : s.h2b.length = 100) (m : Message) :
    submitAccepted m s = (.submit .queueFull, raise .hsubmit (.queueFull .h2b m) s) := by
  unfold submitAccepted
  rw [insertOrRaise_full (q := .h2b) h]

/-- Settles O40: the acceptance test, and behind it the two branches of the insert. -/
theorem hsubmitTestsThenInserts : Obligations.HsubmitTestsThenInserts := by
  intro m s
  rw [exec_hsubmit]
  refine ⟨fun hbad => ?_, fun hv ht hroom => ?_, fun hv ht hfull => ?_⟩
  · have hno : ¬ Acceptable m := by
      rintro ⟨hv, ht⟩
      exact hbad.elim (fun hf => Bool.false_ne_true (hf.symm.trans hv)) (fun hne => hne ht)
    rw [hostSubmit_of_not_acceptable hno, returns_beginOp]
  · rw [hostSubmit_of_acceptable ⟨hv, ht⟩, submitAccepted_room (s := beginOp s) hroom]
    rfl
  · rw [hostSubmit_of_acceptable ⟨hv, ht⟩, submitAccepted_full (s := beginOp s) hfull]
    rfl

theorem exec_hdrain_nil {s : State} (h : s.h2b = []) :
    exec .hdrain s = .next { s with outcome := ⟨[], [], .nothing⟩ } := by
  rw [exec_hdrain, hostDrain_nil (s := beginOp s) h]
  rfl

theorem exec_hdrain_cons {s : State} {m : Message} {rest : List Message} (h : s.h2b = m :: rest) :
    exec .hdrain s = exec (.enq m) { s with h2b := rest } := by
  rw [exec_hdrain, hostDrain_cons (s := beginOp s) h]
  rfl

/-- Settles O41: with room in `pend`, the `ENQ` that `HDRAIN` becomes is that of O33. -/
theorem hdrainMovesOneMessage : Obligations.HdrainMovesOneMessage :=
  fun s => ⟨exec_hdrain_nil, fun _ _ => exec_hdrain_cons, fun m rest h hroom =>
    (exec_hdrain_cons h).trans (enqAppendsAndMarksSeen m { s with h2b := rest } hroom)⟩

theorem hostPop_nil {s : State} (h : s.b2h = []) : hostPop s = (.noData, s) := by
  rw [hostPop, popHead_nil (q := .b2h) h]

theorem exec_hpop_nil {s : State} (h : s.b2h = []) :
    exec .hpop s = .next { s with outcome := ⟨[], [], .noData⟩ } := by
  rw [exec_hpop, hostPop_nil (s := beginOp s) h, returns_beginOp]

/-- Settles O42: the two cases of the pop. -/
theorem hpopReturnsTheOldest : Obligations.HpopReturnsTheOldest :=
  fun _ => ⟨exec_hpop_nil, fun _ _ => exec_hpop_cons⟩

end Sys2Proof.Machine

/-! ## Exceptions (60_exceptions.md)

### What an operation records -/

namespace Sys2Proof.Machine

/-- Settles O20: `FEED` in `Idle` is the report alone. -/
theorem feedInIdleIsFrameOverrun : Obligations.FeedInIdleIsFrameOverrun :=
  fun b s h => exec_feed (parserFeed_idle (s := beginOp s) h b)

/-- From `s` to `t` the reports `es` were raised and the events `ev` sent, each appended to its trace and to the outcome
of the operation in progress (60_exceptions.md R130); what waits to be run is untouched. -/
structure Records (es : List ErrEntry) (ev : List TxEvent) (s t : State) : Prop where
  errLog : t.errLog = s.errLog ++ es
  errs : t.outcome.errs = s.outcome.errs ++ es
  txLog : t.txLog = s.txLog ++ ev
  sent : t.outcome.tx = s.outcome.tx ++ ev
  inbox : t.inbox = s.inbox

section Records

variable {es es' : List ErrEntry} {ev ev' : List TxEvent} {s t u : State}

theorem Records.trans (h : Records es ev s t) (h' : Records es' ev' t u) :
    Records (es ++ es') (ev ++ ev') s u where
  errLog := by rw [h'.errLog, h.errLog, List.append_assoc]
  errs := by rw [h'.errs, h.errs, List.append_assoc]
  txLog := by rw [h'.txLog, h.txLog, List.append_assoc]
  sent := by rw [h'.sent, h.sent, List.append_assoc]
  inbox := h'.inbox.trans h.inbox

/-- An update that leaves traces, outcome and inbox alone records nothing. -/
theorem Records.of_kept (herr : t.errLog = s.errLog) (htx : t.txLog = s.txLog) (hout : t.outcome = s.outcome)
    (hin : t.inbox = s.inbox) : Records [] [] s t := by
  constructor <;> simp [*]

theorem records_self (s : State) : Records [] [] s s :=
  .of_kept rfl rfl rfl rfl

/-- The value an operation returns is no part of what it records. -/
theorem Records.after_returns (h : Records es ev s t) (r : Ret) : Records es ev s (returns r t) := { h with }

theorem records_raise (who : Op) (k : Report) (s : State) : Records [⟨who, k⟩] [] s (raise who k s) :=
  ⟨rfl, rfl, (List.append_nil _).symm, (List.append_nil _).symm, rfl⟩

theorem records_txFrame {f : List Byte} (hf : f ≠ []) (s : State) : Records [] (frameEvents f) s (txFrame f s) := by
  rw [txFrame_eq f hf]
  exact ⟨(List.append_nil _).symm, (List.append_nil _).symm, rfl, rfl, rfl⟩

theorem records_writeQueue (q : QueueId) (l : List Message) (s : State) : Records [] [] s (writeQueue q l s) :=
  .of_kept (writeQueue_errLog ..) (writeQueue_txLog ..) (writeQueue_outcome ..) (writeQueue_inbox ..)

theorem records_tryInsert (q : QueueId) (m : Message) (s : State) : Records [] [] s (tryInsert q m s).2 :=
  records_writeQueue ..

theorem records_popHead (q : FifoId) (s : State) : Records [] [] s (popHead q s).2 :=
  records_writeQueue ..

theorem records_pendTake (a : Byte) (s : State) : Records [] [] s (pendTake a s).2 :=
  .of_kept rfl rfl rfl rfl

theorem records_seenInsert (a : Byte) (s : State) : Records [] [] s (seenInsert a s) := by
  rw [seenInsert_eq]
  exact .of_kept rfl rfl rfl rfl

theorem records_parserStart (b : Byte) (s : State) : Records [] [] s (parserStart b s) :=
  .of_kept rfl rfl rfl rfl

/-- `FEED` reports when it refuses, and only then (60_exceptions.md R133). -/
theorem records_parserFeed (b : Byte) (s : State) :
    Records [] [] s (parserFeed b s).2 ∨
    ((parserFeed b s).1 = .refused ∧ Records [⟨.feed, .frameOverrun b⟩] [] s (parserFeed b s).2) := by
  obtain ⟨_, e⟩ | ⟨_, _, _, _, _, _, _, ⟨e, _⟩ | e⟩ := parserFeed_cases b s <;> rw [e]
  · exact .inr ⟨rfl, records_raise ..⟩
  · exact .inl (.of_kept rfl rfl rfl rfl)
  · exact .inl (.of_kept rfl rfl rfl rfl)

/-- An unseen address is no error (60_exceptions.md R135). -/
theorem records_pollAddress (a : Byte) (s : State) : ∃ ev, Records [] ev s (pollAddress a s) := by
  unfold pollAddress
  split
  · exact ⟨_, (records_pendTake a s).trans (records_txFrame (encodeFrame_ne_nil _) _)⟩
  · exact ⟨[], records_self s⟩

end Records

/-! ### The errors of one operation

Reports and transmissions do not mix freely: only the relay's loss of a Message leaves the operation to go on and send. -/

/-- The reports and events that one operation can record together (60_exceptions.md R131, R140). -/
inductive Reportable : List ErrEntry → List TxEvent → Prop where
  | silent (ev : List TxEvent) : Reportable [] ev
  | crcMismatch (m : Message) : Reportable [⟨.busframe, .crcMismatch m⟩] []
  | frameOverrun (b : Byte) : Reportable [⟨.feed, .frameOverrun b⟩] []
  | relayFull (m : Message) (ev : List TxEvent) : Reportable [⟨.busframe, .queueFull .b2h m⟩] ev
  | pendFull (m : Message) : Reportable [⟨.enq, .queueFull .pend m⟩] []
  | submitFull (m : Message) : Reportable [⟨.hsubmit, .queueFull .h2b m⟩] []

section Reportable

variable {es : List ErrEntry} {ev : List TxEvent}

theorem Reportable.errs_length_le (h : Reportable es ev) : es.length ≤ 1 := by
  cases h with
  | silent => exact Nat.zero_le 1
  | crcMismatch | frameOverrun | relayFull | pendFull | submitFull => exact Nat.le_refl 1

theorem Reportable.live_of_mem (h : Reportable es ev) {e : ErrEntry} (he : e ∈ es) :
    (∃ m, e = ⟨.busframe, .crcMismatch m⟩) ∨ (∃ b, e = ⟨.feed, .frameOverrun b⟩) ∨
    (∃ m, e = ⟨.busframe, .queueFull .b2h m⟩) ∨ (∃ m, e = ⟨.enq, .queueFull .pend m⟩) ∨
    (∃ m, e = ⟨.hsubmit, .queueFull .h2b m⟩) := by
  cases h with
  | silent => cases he
  | crcMismatch m => exact .inl ⟨m, List.mem_singleton.mp he⟩
  | frameOverrun b => exact .inr (.inl ⟨b, List.mem_singleton.mp he⟩)
  | relayFull m => exact .inr (.inr (.inl ⟨m, List.mem_singleton.mp he⟩))
  | pendFull m => exact .inr (.inr (.inr (.inl ⟨m, List.mem_singleton.mp he⟩)))
  | submitFull m => exact .inr (.inr (.inr (.inr ⟨m, List.mem_singleton.mp he⟩)))

theorem Reportable.relayFull_of_sent (h : Reportable es ev) (hsent : ev ≠ []) {e : ErrEntry} (he : e ∈ es) :
    ∃ m, e = ⟨.busframe, .queueFull .b2h m⟩ := by
  cases h with
  | silent => cases he
  | relayFull m => exact ⟨m, List.mem_singleton.mp he⟩
  | crcMismatch | frameOverrun | pendFull | submitFull => exact absurd rfl hsent

end Reportable

/-- From `s` to `t` the block records what one operation can. -/
def OpRecords (s t : State) : Prop :=
  ∃ es ev, Reportable es ev ∧ Records es ev s t

section OpRecords

variable {s t u : State}

theorem Records.opRecords {ev : List TxEvent} (h : Records [] ev s t) : OpRecords s t :=
  ⟨[], ev, .silent ev, h⟩

theorem Records.then_opRecords (h : Records [] [] s t) (h' : OpRecords t u) : OpRecords s u := by
  obtain ⟨es, ev, hrep, hrec⟩ := h'
  exact ⟨es, ev, hrep, h.trans hrec⟩

theorem OpRecords.after_returns (h : OpRecords s t) (r : Ret) : OpRecords s (returns r t) := by
  obtain ⟨es, ev, hrep, hrec⟩ := h
  exact ⟨es, ev, hrep, hrec.after_returns r⟩

theorem opRecords_self (s : State) : OpRecords s s :=
  (records_self s).opRecords

theorem opRecords_parserFeed (b : Byte) (s : State) : OpRecords s (parserFeed b s).2 := by
  obtain h | ⟨_, h⟩ := records_parserFeed b s
  · exact h.opRecords
  · exact ⟨_, _, .frameOverrun b, h⟩

/-- A frame from the bus: the bad CRC ends the operation; the full `b2h` does not keep it from its action. -/
theorem opRecords_busFrameThen (m : Message) {f : State → State} (hf : ∀ u, ∃ ev, Records [] ev u (f u)) (s : State) :
    OpRecords s (busFrameThen m f s) := by
  obtain ⟨_, e⟩ | ⟨_, _, e⟩ | ⟨_, _, e⟩ := busFrameThen_cases m f s <;> rw [e]
  · exact ⟨_, _, .crcMismatch m, records_raise ..⟩
  · obtain ⟨ev, hact⟩ := hf (raise .busframe (.queueFull .b2h m) s)
    exact ⟨_, _, .relayFull m ev, (records_raise ..).trans hact⟩
  · obtain ⟨ev, hact⟩ := hf (writeQueue .b2h (s.b2h ++ [m]) s)
    exact ((records_writeQueue ..).trans hact).opRecords

theorem opRecords_relayOnly (m : Message) (s : State) : OpRecords s (busFrameThen m id s) :=
  opRecords_busFrameThen m (fun u => ⟨[], records_self u⟩) s

theorem opRecords_busFrame (m : Message) (s : State) : OpRecords s (busFrame m s) := by
  by_cases ht : m.type = Config.typePoll
  · exact busFrame_of_poll ht ▸ opRecords_busFrameThen m (records_pollAddress m.address) s
  · exact busFrame_of_not_poll ht ▸ opRecords_relayOnly m s

/-- The byte that completes a frame is not refused, so `BUSFRAME` follows a `FEED` that recorded nothing. -/
theorem opRecords_rxWord (w : Word9) (s : State) : OpRecords s (rxWord w s) := by
  obtain ⟨_, e⟩ | ⟨_, m, t, hm, e⟩ | ⟨_, _, e⟩ := rxWord_cases w s <;> rw [e]
  · exact (records_parserStart ..).opRecords
  · have hfed := records_parserFeed (wordByte w) s
    rw [hm] at hfed
    obtain hkept | ⟨hrefused, _⟩ := hfed
    · exact hkept.then_opRecords (opRecords_busFrame m t)
    · cases hrefused
  · exact opRecords_parserFeed ..

theorem opRecords_enqWith (k : Bool) (m : Message) (s : State) : OpRecords s (enqWith k m s) := by
  by_cases hr : s.pend.length = 100
  · have hraised := records_raise .enq (.queueFull .pend m) s
    rw [enqWith_full hr]
    split
    · exact ⟨_, _, .pendFull m, hraised.trans (records_seenInsert ..)⟩
    · exact ⟨_, _, .pendFull m, hraised⟩
  · rw [enqWith_room hr]
    exact ((records_writeQueue .pend (s.pend ++ [m]) s).trans (records_seenInsert ..)).opRecords

theorem opRecords_submitAccepted (m : Message) (s : State) : OpRecords s (submitAccepted m s).2 := by
  rw [submitAccepted_snd]
  obtain ⟨_, e⟩ | ⟨_, e⟩ := insertOrRaise_cases .hsubmit .h2b m s <;> rw [e]
  · exact ⟨_, _, .submitFull m, records_raise ..⟩
  · exact (records_writeQueue .h2b _ s).opRecords

/-- What is not accepted is not reported (60_exceptions.md R137). -/
theorem opRecords_hostSubmit (m : Message) (s : State) : OpRecords s (hostSubmit m s).2 := by
  unfold hostSubmit
  split
  · exact opRecords_submitAccepted m s
  · exact opRecords_self s

theorem opRecords_hostDrain (s : State) : OpRecords s (hostDrain s) := by
  cases h : s.h2b with
  | nil =>
    rw [hostDrain_nil h]
    exact opRecords_self s
  | cons m rest =>
    rw [hostDrain_cons h]
    exact (records_writeQueue .h2b rest s).then_opRecords (opRecords_enqWith _ m _)

theorem opRecords_hostPop (s : State) : OpRecords s (hostPop s).2 :=
  hostPop_snd s ▸ (records_popHead .b2h s).opRecords

end OpRecords

/-- Every operation ends, and its outcome, empty when it begins, holds what one operation can record. -/
theorem exec_opRecords (s : State) : ∀ i : Instr, ∃ t, exec i s = .next t ∧ OpRecords (beginOp s) t
  | .crc16 _ | .encode _ | .decode _ | .computecrc _ | .verify _ | .defresp _ | .hexline _
  | .tPoll .host _ | .tOther .host _ => ⟨_, rfl, (opRecords_self _).after_returns _⟩
  | .start b => ⟨_, rfl, (records_parserStart b _).opRecords⟩
  | .feed b => ⟨_, rfl, (opRecords_parserFeed b _).after_returns _⟩
  | .rxword w => ⟨_, rfl, opRecords_rxWord w _⟩
  | .txframe f0 f1 rest => ⟨_, rfl, (records_txFrame (List.cons_ne_nil f0 (f1 :: rest)) _).opRecords⟩
  | .busframe m => ⟨_, rfl, opRecords_busFrame m _⟩
  | .poll a =>
    have ⟨_, hsent⟩ := records_pollAddress a (beginOp s)
    ⟨_, rfl, hsent.opRecords⟩
  | .enq m => ⟨_, rfl, opRecords_enqWith _ m _⟩
  | .seenins a => ⟨_, rfl, (records_seenInsert a _).opRecords⟩
  | .pendtake a => ⟨_, rfl, (records_pendTake a _).opRecords.after_returns _⟩
  | .tryinsert q m => ⟨_, rfl, (records_tryInsert q m _).opRecords.after_returns _⟩
  | .pophead q => ⟨_, rfl, (records_popHead q _).opRecords.after_returns _⟩
  | .hsubmit m => ⟨_, rfl, (opRecords_hostSubmit m _).after_returns _⟩
  | .hdrain => ⟨_, rfl, opRecords_hostDrain _⟩
  | .hpop => ⟨_, rfl, (opRecords_hostPop _).after_returns _⟩
  | .tPoll .bus m => ⟨_, rfl, opRecords_busFrameThen m (records_pollAddress m.address) _⟩
  | .tData .bus m | .tOther .bus m => ⟨_, rfl, opRecords_relayOnly m _⟩
  | .tData .host m => ⟨_, rfl, OpRecords.after_returns (by
      split
      · exact opRecords_submitAccepted m _
      · exact opRecords_self _) _⟩

/-- What an operation records is what its outcome holds at its end (60_exceptions.md R130). -/
theorem outcome_of_exec {i : Instr} {s t : State} (h : exec i s = .next t) :
    Reportable t.outcome.errs t.outcome.tx ∧ Records t.outcome.errs t.outcome.tx (beginOp s) t := by
  obtain ⟨u, hu, es, ev, hrep, hrec⟩ := exec_opRecords s i
  obtain rfl := Host.Outcome.next.inj (hu.symm.trans h)
  have herrs : u.outcome.errs = es := hrec.errs
  have hsent : u.outcome.tx = ev := hrec.sent
  rw [herrs, hsent]
  exact ⟨hrep, hrec⟩

/-- Settles O45: no operation of the 24 rows faults, refuses or writes the inbox. -/
theorem everyOperationEnds : Obligations.EveryOperationEnds := by
  intro i s
  obtain ⟨t, ht, _, _, _, hrec⟩ := exec_opRecords s i
  exact ⟨t, ht, hrec.inbox⟩

/-- Settles O49: whatever writes a trace appends the same to the outcome. -/
theorem tracesGrowByTheOutcome : Obligations.TracesGrowByTheOutcome := by
  intro i s t h
  obtain ⟨_, hrec⟩ := outcome_of_exec h
  exact ⟨hrec.txLog, hrec.errLog⟩

/-- Settles O50: what an operation can record holds no other report. -/
theorem onlyTheThreeLiveErrorKinds : Obligations.OnlyTheThreeLiveErrorKinds := by
  intro i s t h e he
  obtain ⟨hrep, _⟩ := outcome_of_exec h
  exact hrep.live_of_mem he

/-- Settles O51: an operation that reports another error than a full `b2h` sends nothing. This holds of every operation,
whoever starts it. -/
theorem atMostOneReport : Obligations.AtMostOneReport := by
  intro i s t _ h
  obtain ⟨hrep, _⟩ := outcome_of_exec h
  exact ⟨hrep.errs_length_le, fun hsent e he => hrep.relayFull_of_sent hsent he⟩

end Sys2Proof.Machine

/-! ## Reset and hazards (70_reset_and_hazards.md)

### After reset -/

namespace Sys2Proof.Machine

/-- Settles O2: an idle parser and empty queues, so each operation is in the case of its law that asks for these. -/
theorem firstOperationAfterReset : Obligations.FirstOperationAfterReset := by
  refine ⟨fun w hw => ?unmarked, fun w hw => ?marked, exec_hpop_nil rfl, exec_hdrain_nil rfl,
    fun m hv ht => ?submit, fun m hv ht => ?poll⟩
  case unmarked =>
    rw [exec_rxword, rxWord_of_unmarked_idle hw (u := beginOp State.reset) rfl]
    rfl
  case marked =>
    rw [exec_rxword, rxWord_of_marked hw]
    rfl
  case submit =>
    rw [exec_hsubmit, hostSubmit_of_acceptable ⟨hv, ht⟩, submitAccepted_room (s := beginOp State.reset) nofun]
    rfl
  case poll =>
    rw [exec_busframe, busFrame_of_poll ht, busFrameThen_room hv (s := beginOp State.reset) nofun,
      pollAddress_unseen List.not_mem_nil]
    rfl

/-! ### What leaves `pend`, and what is sent for it

A received word is the only operation from outside that takes an entry out of `pend` or transmits, and it does so for a
seen address (43_bus_relay.md R111). -/

/-- From `s` to `t` nothing left `pend` and nothing was sent, or one poll of a seen address was answered. -/
def AnswersPoll (s t : State) : Prop :=
  (t.pend = s.pend ∧ t.txLog = s.txLog) ∨
  ∃ a ∈ s.seen, t.pend = s.pend.eraseP (fun m => m.address == a) ∧
    t.txLog = s.txLog ++ frameEvents (encodeFrame (pollReply a s.pend))

/-- An update before the poll that leaves `seen`, `pend` and `tx_log` alone makes no difference to the answer. -/
theorem AnswersPoll.of_kept {s t u : State} (h : AnswersPoll u t) (hseen : u.seen = s.seen) (hpend : u.pend = s.pend)
    (htx : u.txLog = s.txLog) : AnswersPoll s t := by
  unfold AnswersPoll at h
  rwa [hseen, hpend, htx] at h

theorem answersPoll_self (s : State) : AnswersPoll s s :=
  .inl ⟨rfl, rfl⟩

theorem answersPoll_pollAddress (a : Byte) (s : State) : AnswersPoll s (pollAddress a s) := by
  by_cases ha : a ∈ s.seen
  · rw [pollAddress_seen ha]
    exact .inr ⟨a, ha, rfl, rfl⟩
  · rw [pollAddress_unseen ha]
    exact answersPoll_self s

theorem answersPoll_busFrameThen (m : Message) {f : State → State} (hf : ∀ u, AnswersPoll u (f u)) (s : State) :
    AnswersPoll s (busFrameThen m f s) := by
  obtain ⟨_, e⟩ | ⟨_, _, e⟩ | ⟨_, _, e⟩ := busFrameThen_cases m f s <;> rw [e]
  · exact .inl ⟨rfl, rfl⟩
  · exact (hf _).of_kept rfl rfl rfl
  · exact (hf _).of_kept rfl rfl rfl

theorem answersPoll_busFrame (m : Message) (s : State) : AnswersPoll s (busFrame m s) := by
  by_cases ht : m.type = Config.typePoll
  · exact busFrame_of_poll ht ▸ answersPoll_busFrameThen m (answersPoll_pollAddress m.address) s
  · exact busFrame_of_not_poll ht ▸ answersPoll_busFrameThen m answersPoll_self s

theorem parserFeed_keeps_txLog (b : Byte) (s : State) : (parserFeed b s).2.txLog = s.txLog := by
  obtain h | ⟨_, h⟩ := records_parserFeed b s
  · exact h.txLog.trans (List.append_nil _)
  · exact h.txLog.trans (List.append_nil _)

theorem answersPoll_rxWord (w : Word9) (s : State) : AnswersPoll s (rxWord w s) := by
  have htx := parserFeed_keeps_txLog (wordByte w) s
  obtain ⟨hseen, hpend, -⟩ := parserFeed_keeps_queues (wordByte w) s
  obtain ⟨_, e⟩ | ⟨_, m, t, hm, e⟩ | ⟨_, _, e⟩ := rxWord_cases w s <;> rw [e]
  · exact .inl ⟨rfl, rfl⟩
  · rw [hm] at hseen hpend htx
    exact (answersPoll_busFrame m t).of_kept hseen hpend htx
  · exact .inl ⟨hpend, htx⟩

theorem hostSubmit_keeps_pend_txLog (m : Message) (s : State) :
    (hostSubmit m s).2.pend = s.pend ∧ (hostSubmit m s).2.txLog = s.txLog := by
  obtain ⟨l, reports, hside⟩ := hostSubmit_snd_of_h2b m s.h2b
  obtain ⟨o, e⟩ := hside s rfl
  rw [e]
  exact ⟨rfl, rfl⟩

theorem hostPop_keeps_pend_txLog (s : State) : (hostPop s).2.pend = s.pend ∧ (hostPop s).2.txLog = s.txLog := by
  rw [hostPop_snd_eq_tail]
  exact ⟨rfl, rfl⟩

/-! ### Entries of an address that is not tracked -/

theorem pend_prefix_enqWith (k : Bool) (m : Message) (s : State) : s.pend <+: (enqWith k m s).pend := by
  by_cases hr : s.pend.length = 100
  · rw [enqWith_full_eq hr]
  · rw [enqWith_room hr, seenInsert_eq]
    exact List.prefix_append ..

theorem pend_prefix_hostDrain (s : State) : s.pend <+: (hostDrain s).pend := by
  cases h : s.h2b with
  | nil => rw [hostDrain_nil h]
  | cons m rest =>
    rw [hostDrain_cons h]
    exact pend_prefix_enqWith _ m { s with h2b := rest }

/-- Taking the first entry that passes a test keeps, in order, those of any test the first one excludes. -/
theorem filter_eraseP_of_excluded {α : Type} {p q : α → Bool} (h : ∀ x, q x = true → p x = false) (l : List α) :
    (l.eraseP p).filter q = l.filter q := by
  induction l with
  | nil => rfl
  | cons x l ih =>
    cases hp : p x with
    | false => rw [List.eraseP_cons_of_neg (by simp [hp]), List.filter_cons, List.filter_cons, ih]
    | true =>
      have hq : ¬ q x = true := fun hq => by simp [h x hq] at hp
      rw [List.eraseP_cons_of_pos hp, List.filter_cons_of_neg hq]

/-- An answered poll leaves the entries of an address that is not seen. -/
theorem AnswersPoll.keeps_unseen {s t : State} (h : AnswersPoll s t) {a : Byte} (ha : a ∉ s.seen) :
    t.pend.filter (fun m => m.address == a) = s.pend.filter (fun m => m.address == a) := by
  obtain ⟨hpend, _⟩ | ⟨b, hb, hpend, _⟩ := h <;> rw [hpend]
  have hne : a ≠ b := (ne_of_mem_of_not_mem hb ha).symm
  refine filter_eraseP_of_excluded (fun m hm => ?_) s.pend
  rw [beq_iff_eq.mp hm]
  exact beq_eq_false_iff_ne.mpr hne

/-- No operation from outside takes an entry of an unseen address: polls answer seen addresses only, and `ENQ` appends. -/
theorem external_keeps_unseen_entries {i : Instr} {s t : State} {a : Byte} (hi : external i = true) (ha : a ∉ s.seen)
    (h : exec i s = .next t) :
    s.pend.filter (fun m => m.address == a) <+: t.pend.filter (fun m => m.address == a) := by
  obtain ⟨w, rfl⟩ | ⟨m, rfl⟩ | rfl | rfl := external_cases hi
  · obtain rfl := Host.Outcome.next.inj ((exec_rxword w s).symm.trans h)
    have hkept := (answersPoll_rxWord w (beginOp s)).keeps_unseen ha
    exact hkept ▸ List.prefix_rfl
  · obtain rfl := Host.Outcome.next.inj ((exec_hsubmit m s).symm.trans h)
    obtain ⟨hpend, _⟩ := hostSubmit_keeps_pend_txLog m (beginOp s)
    rw [returns_pend, hpend, beginOp_pend]
  · obtain rfl := Host.Outcome.next.inj ((exec_hdrain s).symm.trans h)
    exact (pend_prefix_hostDrain (beginOp s)).filter _
  · obtain rfl := Host.Outcome.next.inj ((exec_hpop s).symm.trans h)
    obtain ⟨hpend, _⟩ := hostPop_keeps_pend_txLog (beginOp s)
    rw [returns_pend, hpend, beginOp_pend]

/-- Settles O59: one operation keeps the entries of every unseen address, whether or not the set is full; a full set, which
stays as it is (43_bus_relay.md R116 (f)), is what makes it so for good. -/
theorem untrackedEntriesNeverLeave : Obligations.UntrackedEntriesNeverLeave :=
  fun _ _ _ _ hi _ ha h => external_keeps_unseen_entries hi ha h

/-! ### Before the first `HDRAIN` -/

/-- With no address seen there is no poll to answer. -/
theorem AnswersPoll.of_seen_nil {s t : State} (h : AnswersPoll s t) (hs : s.seen = []) :
    t.pend = s.pend ∧ t.txLog = s.txLog := by
  obtain hkept | ⟨a, ha, _⟩ := h
  · exact hkept
  · exact absurd (hs ▸ ha) List.not_mem_nil

/-- From `s` to `t` the block stayed silent: no address is seen in `t`, and `pend` and `tx_log` are those of `s`. -/
def StaysSilent (s t : State) : Prop :=
  t.seen = [] ∧ t.pend = s.pend ∧ t.txLog = s.txLog

theorem StaysSilent.trans {s t u : State} (h : StaysSilent s t) (h' : StaysSilent t u) : StaysSilent s u := by
  obtain ⟨_, hpend, htx⟩ := h
  obtain ⟨hseen', hpend', htx'⟩ := h'
  exact ⟨hseen', hpend'.trans hpend, htx'.trans htx⟩

/-- Of the operations from outside only `HDRAIN` writes `seen` or adds to `pend` (92_eei_decisions.md D5). -/
theorem external_staysSilent {i : Instr} (hi : external i = true) (hd : i ≠ .hdrain) {s : State} (hs : s.seen = []) :
    ∃ t, exec i s = .next t ∧ StaysSilent s t := by
  obtain ⟨w, rfl⟩ | ⟨m, rfl⟩ | rfl | rfl := external_cases hi
  · exact ⟨_, exec_rxword w s, (rxWord_keeps_seen w (beginOp s)).trans hs,
      (answersPoll_rxWord w (beginOp s)).of_seen_nil hs⟩
  · exact ⟨_, exec_hsubmit m s, (hostSubmit_keeps_seen m (beginOp s)).trans hs,
      hostSubmit_keeps_pend_txLog m (beginOp s)⟩
  · exact absurd rfl hd
  · exact ⟨_, exec_hpop s, (hostPop_keeps_seen (beginOp s)).trans hs, hostPop_keeps_pend_txLog (beginOp s)⟩

/-- Settles O60: by induction on the run, each of whose operations leaves `seen` empty for the next. -/
theorem noAnswerBeforeTheFirstDrain : Obligations.NoAnswerBeforeTheFirstDrain := by
  intro is s hs his
  induction is generalizing s with
  | nil => exact ⟨s, rfl, hs, rfl, rfl⟩
  | cons i is ih =>
    obtain ⟨⟨hi, hd⟩, hrest⟩ := List.forall_mem_cons.mp his
    obtain ⟨u, hu, hsilent⟩ := external_staysSilent hi hd hs
    have hseen : u.seen = [] := hsilent.1
    obtain ⟨t, ht, hsilent'⟩ := ih u hseen hrest
    exact ⟨t, (execAll_cons hu is).trans ht, hsilent.trans hsilent'⟩

end Sys2Proof.Machine
